-- ==== Sys2Proof/Word.lean ====
section
/-! DEFINITION. The word types of the block: a byte of IN, OUT or the stream, and a 32-bit host register (R17). -/

namespace Sys2Proof

/-- One byte of the input space, the output space or an encoded segment (R12). -/
abbrev Byte := BitVec 8

/-- One 32-bit register of the host interface (R17). -/
abbrev Word := BitVec 32

end Sys2Proof
end

