-- ==== Sys2Proof/Config.lean ====
section
/-! DEFINITION. What a platform fixes (REG_BASE, R8, R41) and the values the spec leaves open. Every constant here is opaque:
no proof can see its value, so a theorem that mentions one holds whatever it is. -/

namespace Sys2Proof

/-- REG_BASE, the OPEN base address of the host register block (R8, R17). DESIGN CHOICE, log entry 13, safe. -/
opaque Config.regBase : Nat

/-- The content of the input byte at an offset the host has not filled (R33: the host's content of IN).
A free value: DESIGN CHOICE, log entry 4, safe. -/
opaque Config.inByte : Nat → Byte

/-- The free bytes of the output space (I5, I16, I19, I20): draw number, then offset. DESIGN CHOICE, log entries 5 and 7,
safe. -/
opaque Config.outByte : Nat → Nat → Byte

end Sys2Proof
end

