-- ==== Sys2Proof/Syntax.lean ====
section
/-! DEFINITION. The operations of the block, one constructor per row of spec/opcode_table.json, and their operands. -/

namespace Sys2Proof

/-- The unit width W in bytes: 1, 2 or 4 (R3, R8, register WB of R24). -/
inductive Width
  | w1 | w2 | w4
  deriving DecidableEq, Repr

/-- The seven host registers (R17). -/
inductive Reg
  | ctrl | inLen | status | outLen | hdrLen | hdrW0 | hdrW1
  deriving DecidableEq, Repr

/-- The forms of CONFIG (R84): a CTRL write with bit 0 = 0, an IN_LEN write, and the write of a read-only register, which
is ignored. The reserved bits of a CTRL write are ignored (R18), so no form holds them. -/
inductive ConfigWrite
  | ctrl (unitWidth : Byte) (forceWide : Bool)
  | inLen (len : Word)
  | readOnly (r : Reg) (v : Word)
  deriving DecidableEq, Repr

/-- One access of the host to the register block (R17, R23): its direction, its byte offset from REG_BASE, its size in
bytes and, for a write, its data. Accesses that have no meaning can be written down; the decoder refuses them. -/
structure Access where
  write : Bool
  offset : Nat
  size : Nat
  data : Word
  deriving DecidableEq, Repr

/-- The operations of the block. -/
inductive Instr
  /-- RUN8 (R47, R75): N, the run length less 2, and the pattern byte. -/
  | run8 (n : BitVec 7) (p : Byte)
  /-- LIT8 (R48, R76): the bits of -K below the sign bit, and the K units. -/
  | lit8 (f : BitVec 7) (units : List Byte)
  /-- RUN16 (R47, R75): the pattern unit is read big-endian (R38). -/
  | run16 (n : BitVec 15) (p : BitVec 16)
  /-- LIT16 (R48, R76): the units are 2*K bytes in input order. -/
  | lit16 (f : BitVec 15) (units : List Byte)
  /-- RUN32 (R47, R75). -/
  | run32 (n : BitVec 31) (p : BitVec 32)
  /-- LIT32 (R48, R76): the units are 4*K bytes in input order. -/
  | lit32 (f : BitVec 31) (units : List Byte)
  /-- HDR8_SHORT (R53): the size field. -/
  | hdr8Short (size : BitVec 16)
  /-- HDR16_SHORT (R53). -/
  | hdr16Short (size : BitVec 16)
  /-- HDR32_SHORT (R53). -/
  | hdr32Short (size : BitVec 16)
  /-- HDR8_WIDE (R54). -/
  | hdr8Wide (size : BitVec 32)
  /-- HDR16_WIDE (R54). -/
  | hdr16Wide (size : BitVec 32)
  /-- HDR32_WIDE (R54). -/
  | hdr32Wide (size : BitVec 32)
  /-- HDR_RESERVED (R55): word0 with TYPE = 11, its bits above and below TYPE. -/
  | hdrReserved (hi : BitVec 5) (lo : BitVec 9)
  /-- START (R85): a CTRL write with bit 0 = 1. -/
  | start (unitWidth : Byte) (forceWide : Bool)
  /-- CONFIG (R84). -/
  | config (c : ConfigWrite)
  /-- READ (R86). -/
  | read (r : Reg)
  /-- SCAN_RUN (R63). -/
  | scanRun
  /-- SCAN_LIT (R64). -/
  | scanLit
  /-- SCAN_END (R65). -/
  | scanEnd
  /-- EMIT_RUN (R75): run length in units and pattern unit. -/
  | emitRun (l : Nat) (p : List Byte)
  /-- EMIT_LIT (R76): first unit and number of units. -/
  | emitLit (s : Nat) (k : Nat)
  /-- HDR_BUILD (R81). -/
  | hdrBuild
  deriving DecidableEq, Repr

end Sys2Proof
end

