-- ==== Sys2Proof/WellFormed.lean ====
section
/-! DEFINITION. Which operand values are legal whatever the state is. -/

namespace Sys2Proof

/-- A well-formed operation. A literal holds exactly the K units its field announces (R48); a run has at least 2 units
and a pattern of one unit (R75); a literal emit has at least 1 unit (R76); only a read-only register may stand in the
ignored form of CONFIG (R84). -/
def wellFormed (i : Instr) : Bool :=
  match i with
  | .run8 _ _ => true
  | .lit8 f us => us.length == 128 - f.toNat
  | .run16 _ _ => true
  | .lit16 f us => us.length == 2 * (32768 - f.toNat)
  | .run32 _ _ => true
  | .lit32 f us => us.length == 4 * (2147483648 - f.toNat)
  | .hdr8Short _ => true
  | .hdr16Short _ => true
  | .hdr32Short _ => true
  | .hdr8Wide _ => true
  | .hdr16Wide _ => true
  | .hdr32Wide _ => true
  | .hdrReserved _ _ => true
  | .start _ _ => true
  | .config (.ctrl _ _) => true
  | .config (.inLen _) => true
  | .config (.readOnly r _) => decide (r ≠ .ctrl ∧ r ≠ .inLen)
  | .read _ => true
  | .scanRun => true
  | .scanLit => true
  | .scanEnd => true
  | .emitRun l p => decide (2 ≤ l) && (p.length == 1 || p.length == 2 || p.length == 4)
  | .emitLit _ k => decide (1 ≤ k)
  | .hdrBuild => true

end Sys2Proof
end

