-- ==== Sys2Proof/Decode.lean ====
section
/-! DEFINITION. Byte order (R13), the decoder of segments, headers and register accesses, and after it the encoder, both
from the encoding tables of 30_encoding.md and 10_state.md. The internal operations of R56 have no encoding. -/

namespace Sys2Proof

/-! ## Byte order -/

/-- R13: the n-byte big-endian form of v. -/
def be (v n : Nat) : List Byte :=
  (List.range n).map fun i => BitVec.ofNat 8 (v >>> (8 * (n - 1 - i)))

/-- R13: be_signed, the n-byte big-endian form of a signed value, taken modulo 2^(8n) (R11). -/
def beSigned (v : Int) (n : Nat) : List Byte :=
  be (v % (2 ^ (8 * n) : Nat)).toNat n

/-- The number a byte sequence stands for when read big-endian (R13, R38). -/
def beValue (bs : List Byte) : Nat :=
  bs.foldl (fun a b => a * 256 + b.toNat) 0

/-- The two bytes of a 16-bit word, most significant first. -/
def bytes16 (v : BitVec 16) : List Byte := [v.extractLsb' 8 8, v.extractLsb' 0 8]

/-- The four bytes of a 32-bit word, most significant first. -/
def bytes32 (v : BitVec 32) : List Byte :=
  [v.extractLsb' 24 8, v.extractLsb' 16 8, v.extractLsb' 8 8, v.extractLsb' 0 8]

/-! ## Codes -/

/-- Why a code is rejected. -/
inductive DecodeError
  /-- The bytes end inside the segment's length field (R58). -/
  | truncatedField
  /-- The bytes end inside the segment's pattern or units (R58). -/
  | truncatedSegment
  /-- The bytes end inside the header (R53, R54). -/
  | truncatedHeader
  /-- The access is not 32 bits wide (R23). -/
  | notAWordAccess
  /-- The offset is none of the seven registers' (R23). -/
  | noSuchRegister
  deriving DecidableEq, Repr

/-- The encoded form of an operation: the bytes of a segment of a stream of unit width W (formats SEG8, SEG16, SEG32; W is
fixed for the stream by the header, R46), the bytes of a header (format HDR), or a register access (format REG32). -/
inductive Code
  | seg (w : Width) (bytes : List Byte)
  | hdr (bytes : List Byte)
  | reg (a : Access)
  deriving DecidableEq, Repr

/-- The byte offset of a host register from REG_BASE (R17). -/
def regOffset (r : Reg) : Nat :=
  match r with
  | .ctrl => 0x00
  | .inLen => 0x04
  | .status => 0x08
  | .outLen => 0x0C
  | .hdrLen => 0x10
  | .hdrW0 => 0x14
  | .hdrW1 => 0x18

/-- The address of a host register on the platform (R17); REG_BASE is open. -/
def regAddress (r : Reg) : Nat := Config.regBase + regOffset r

/-- The register at an offset (R17), none at any other offset (R23). -/
def regAt (off : Nat) : Option Reg :=
  [Reg.ctrl, .inLen, .status, .outLen, .hdrLen, .hdrW0, .hdrW1].find? fun r => regOffset r == off

/-! ## Decoder. The bytes are given by their number and a function from index to byte, so that a long literal is not
walked through before it is used. -/

/-- K of a literal from the bits below the sign bit of its field: f = -K (R46, R48). -/
def litCount8 (f : BitVec 7) : Nat := 128 - f.toNat
/-- K of a 16-bit literal. -/
def litCount16 (f : BitVec 15) : Nat := 32768 - f.toNat
/-- K of a 32-bit literal. -/
def litCount32 (f : BitVec 31) : Nat := 2147483648 - f.toNat

/-- The n bytes from index a on. -/
def bytesFrom (byteAt : Nat → Byte) (a n : Nat) : List Byte :=
  (List.range n).map fun j => byteAt (a + j)

/-- Format SEG8 (R46 to R48, W = 1). -/
def decodeSeg8 (n : Nat) (byteAt : Nat → Byte) : Except DecodeError Instr :=
  if n < 1 then .error .truncatedField
  else
    let fld : BitVec 8 := byteAt 0
    let low := fld.extractLsb' 0 7
    if fld.msb = false then
      if n < 2 then .error .truncatedSegment else .ok (.run8 low (byteAt 1))
    else
      if n < 1 + litCount8 low then .error .truncatedSegment
      else .ok (.lit8 low (bytesFrom byteAt 1 (litCount8 low)))

/-- Format SEG16 (R46 to R48, W = 2). -/
def decodeSeg16 (n : Nat) (byteAt : Nat → Byte) : Except DecodeError Instr :=
  if n < 2 then .error .truncatedField
  else
    let fld : BitVec 16 := byteAt 0 ++ byteAt 1
    let low := fld.extractLsb' 0 15
    if fld.msb = false then
      if n < 4 then .error .truncatedSegment else .ok (.run16 low (byteAt 2 ++ byteAt 3))
    else
      if n < 2 + 2 * litCount16 low then .error .truncatedSegment
      else .ok (.lit16 low (bytesFrom byteAt 2 (2 * litCount16 low)))

/-- Format SEG32 (R46 to R48, W = 4). -/
def decodeSeg32 (n : Nat) (byteAt : Nat → Byte) : Except DecodeError Instr :=
  if n < 4 then .error .truncatedField
  else
    let fld : BitVec 32 := byteAt 0 ++ byteAt 1 ++ byteAt 2 ++ byteAt 3
    let low := fld.extractLsb' 0 31
    if fld.msb = false then
      if n < 8 then .error .truncatedSegment
      else .ok (.run32 low (byteAt 4 ++ byteAt 5 ++ byteAt 6 ++ byteAt 7))
    else
      if n < 4 + 4 * litCount32 low then .error .truncatedSegment
      else .ok (.lit32 low (bytesFrom byteAt 4 (4 * litCount32 low)))

/-- A segment of a stream of unit width w (R46). -/
def decodeSeg (w : Width) (n : Nat) (byteAt : Nat → Byte) : Except DecodeError Instr :=
  match w with
  | .w1 => decodeSeg8 n byteAt
  | .w2 => decodeSeg16 n byteAt
  | .w4 => decodeSeg32 n byteAt

/-- Format HDR (R51 to R55): TYPE is word0[10:9], WIDE is word0[3]; the unassigned bits and the padding bytes are ignored,
as the reference decode ignores them (R55). DEDUCED, log entry 17. -/
def decodeHdr (n : Nat) (byteAt : Nat → Byte) : Except DecodeError Instr :=
  if n < 2 then .error .truncatedHeader
  else
    let word0 : BitVec 16 := byteAt 0 ++ byteAt 1
    let type := (word0.extractLsb' 9 2).toNat
    if type = 3 then .ok (.hdrReserved (word0.extractLsb' 11 5) (word0.extractLsb' 0 9))
    else if word0.getLsbD 3 = false then
      if n < 4 then .error .truncatedHeader
      else
        let size : BitVec 16 := byteAt 2 ++ byteAt 3
        .ok (if type = 0 then .hdr8Short size else if type = 1 then .hdr16Short size else .hdr32Short size)
    else
      if n < 8 then .error .truncatedHeader
      else
        let size : BitVec 32 := byteAt 4 ++ byteAt 5 ++ byteAt 6 ++ byteAt 7
        .ok (if type = 0 then .hdr8Wide size else if type = 1 then .hdr16Wide size else .hdr32Wide size)

/-- A write of v to register r (R18, R84, R85): a CTRL write starts when bit 0 is 1; its reserved bits are ignored. -/
def decodeWrite (r : Reg) (v : Word) : Instr :=
  match r with
  | .ctrl =>
    if v.getLsbD 0 then .start (v.extractLsb' 8 8) (v.getLsbD 1)
    else .config (.ctrl (v.extractLsb' 8 8) (v.getLsbD 1))
  | .inLen => .config (.inLen v)
  | .status => .config (.readOnly .status v)
  | .outLen => .config (.readOnly .outLen v)
  | .hdrLen => .config (.readOnly .hdrLen v)
  | .hdrW0 => .config (.readOnly .hdrW0 v)
  | .hdrW1 => .config (.readOnly .hdrW1 v)

/-- Format REG32 (R17, R23): every offset of R17 is a multiple of 4, so an access to one of them is aligned. -/
def decodeAccess (a : Access) : Except DecodeError Instr :=
  if a.size ≠ 4 then .error .notAWordAccess
  else
    match regAt a.offset with
    | none => .error .noSuchRegister
    | some r => .ok (if a.write then decodeWrite r a.data else .read r)

/-- The decoder: the operation a code begins with. -/
def decode (c : Code) : Except DecodeError Instr :=
  match c with
  | .seg w bs => decodeSeg w bs.length fun i => bs.getD i 0
  | .hdr bs => decodeHdr bs.length fun i => bs.getD i 0
  | .reg a => decodeAccess a

/-! ## Encoder -/

/-- The CTRL word of a write (opcode_table.json, rows START and CONFIG): UNIT_WIDTH in 15:8, FORCE_WIDE in 1, START in 0. -/
def ctrlWord (unitWidth : Byte) (forceWide startBit : Bool) : Word :=
  (0 : BitVec 16) ++ unitWidth ++ (0 : BitVec 6) ++ BitVec.ofBool forceWide ++ BitVec.ofBool startBit

/-- word0 of a header (R51): TYPE in 10:9, WIDE in 3, 0 elsewhere. -/
def hdrWord0 (type : BitVec 2) (wide : Bool) : BitVec 16 :=
  (0 : BitVec 5) ++ type ++ (0 : BitVec 5) ++ BitVec.ofBool wide ++ (0 : BitVec 3)

/-- The 4-byte header (R53). -/
def shortHeader (type : BitVec 2) (size : BitVec 16) : List Byte :=
  bytes16 (hdrWord0 type false) ++ bytes16 size

/-- The 8-byte header (R54). -/
def wideHeader (type : BitVec 2) (size : BitVec 32) : List Byte :=
  bytes16 (hdrWord0 type true) ++ [0, 0] ++ bytes32 size

/-- The encoder: none for the internal operations, which have no encoding (R56). -/
def encode (i : Instr) : Option Code :=
  match i with
  | .run8 n p => some (.seg .w1 [(0 : BitVec 1) ++ n, p])
  | .lit8 f us => some (.seg .w1 (((1 : BitVec 1) ++ f) :: us))
  | .run16 n p => some (.seg .w2 (bytes16 ((0 : BitVec 1) ++ n) ++ bytes16 p))
  | .lit16 f us => some (.seg .w2 (bytes16 ((1 : BitVec 1) ++ f) ++ us))
  | .run32 n p => some (.seg .w4 (bytes32 ((0 : BitVec 1) ++ n) ++ bytes32 p))
  | .lit32 f us => some (.seg .w4 (bytes32 ((1 : BitVec 1) ++ f) ++ us))
  | .hdr8Short size => some (.hdr (shortHeader 0 size))
  | .hdr16Short size => some (.hdr (shortHeader 1 size))
  | .hdr32Short size => some (.hdr (shortHeader 2 size))
  | .hdr8Wide size => some (.hdr (wideHeader 0 size))
  | .hdr16Wide size => some (.hdr (wideHeader 1 size))
  | .hdr32Wide size => some (.hdr (wideHeader 2 size))
  | .hdrReserved hi lo => some (.hdr (bytes16 (hi ++ (3 : BitVec 2) ++ lo)))
  | .start uw fw => some (.reg ⟨true, regOffset .ctrl, 4, ctrlWord uw fw true⟩)
  | .config (.ctrl uw fw) => some (.reg ⟨true, regOffset .ctrl, 4, ctrlWord uw fw false⟩)
  | .config (.inLen len) => some (.reg ⟨true, regOffset .inLen, 4, len⟩)
  | .config (.readOnly r v) => some (.reg ⟨true, regOffset r, 4, v⟩)
  | .read r => some (.reg ⟨false, regOffset r, 4, 0⟩)
  | .scanRun => none
  | .scanLit => none
  | .scanEnd => none
  | .emitRun _ _ => none
  | .emitLit _ _ => none
  | .hdrBuild => none

/-- How many bytes of a stream an operation's code takes (R50, R53, R54; the two bytes of word0 for a reserved header); 0
for what is not made of stream bytes. -/
def encodedSize (i : Instr) : Nat :=
  match i with
  | .run8 _ _ => 2
  | .lit8 f _ => 1 + litCount8 f
  | .run16 _ _ => 4
  | .lit16 f _ => 2 + 2 * litCount16 f
  | .run32 _ _ => 8
  | .lit32 f _ => 4 + 4 * litCount32 f
  | .hdr8Short _ => 4
  | .hdr16Short _ => 4
  | .hdr32Short _ => 4
  | .hdr8Wide _ => 8
  | .hdr16Wide _ => 8
  | .hdr32Wide _ => 8
  | .hdrReserved _ _ => 2
  | .start _ _ => 0
  | .config _ => 0
  | .read _ => 0
  | .scanRun => 0
  | .scanLit => 0
  | .scanEnd => 0
  | .emitRun _ _ => 0
  | .emitLit _ _ => 0
  | .hdrBuild => 0

/-! ## Words numbered as spec/opcode_table.json numbers them -/

/-- Where a table word is presented: to the Segment Encoder, to the Header Builder, or as a CTRL write. -/
inductive TableWord
  | seg (w : Width) (head : List Byte)
  | hdr (head : List Byte)
  | ctrl (v : Word)
  deriving DecidableEq, Repr

/-- The reading of a table word. The formats of the table overlap (SEG8, SEG16 and SEG32 with HDR and REG32), so the number
of bits and the bits themselves choose: with 8 bits a CTRL write with START set and bits 7:2 zero, else SEG8; with 16 bits
HDR when every bit of word0 the table does not mask is 0, else SEG16; with 32 bits a CTRL write when its reserved bits are
0 and the word is not 0, else SEG32. DESIGN CHOICE, log entry 15. -/
def tableWord (nbits w : Nat) : TableWord :=
  if nbits ≤ 8 then
    if w &&& 0xFD = 1 then .ctrl (BitVec.ofNat 32 w) else .seg .w1 [BitVec.ofNat 8 w]
  else if nbits ≤ 16 then
    if w &&& 0xF9F7 = 0 then .hdr (bytes16 (BitVec.ofNat 16 w)) else .seg .w2 (bytes16 (BitVec.ofNat 16 w))
  else
    if w ≠ 0 ∧ w &&& 0xFFFF00FC = 0 then .ctrl (BitVec.ofNat 32 w) else .seg .w4 (bytes32 (BitVec.ofNat 32 w))

/-- The longest code in bytes: a 32-bit literal of 2^31 units (R48). -/
def longestCode : Nat := 4 + 4 * 2147483648

/-- The decoder on a head of bytes followed by `pad` zero bytes. -/
def decodePadded (w : Option Width) (head : List Byte) (pad : Nat) : Except DecodeError Instr :=
  match w with
  | some w => decodeSeg w (head.length + pad) fun i => head.getD i 0
  | none => decodeHdr (head.length + pad) fun i => head.getD i 0

/-- The operation the decoder reads from a table word, the bytes after it being zero. -/
def decodeTableWord (nbits w : Nat) : Option Instr :=
  match tableWord nbits w with
  | .seg width head => (decodePadded (some width) head longestCode).toOption
  | .hdr head => (decodePadded none head longestCode).toOption
  | .ctrl v => (decodeAccess ⟨true, regOffset .ctrl, 4, v⟩).toOption

end Sys2Proof
end

