-- ==== Sys2Proof/Machine/State.lean ====
section
/-! DEFINITION. The state of the machine as plain data, the ways a step can stop, and the state after reset. -/

namespace Sys2Proof.Machine

/-- PHASE (R24). -/
inductive Phase
  | idle | scan
  deriving DecidableEq, Repr

/-- A segment as the trace records it (R29): RUN(L, pattern) or LIT(start, K). -/
inductive Segment
  | run (l : Nat) (pattern : List Byte)
  | lit (start : Nat) (k : Nat)
  deriving DecidableEq, Repr

/-- A byte space: the bytes whose value is known, by offset, offsets strictly rising. An offset not listed has no known
value (R31, R36). -/
abbrev Memory := List Host.Cell

/-- A move of the host agent (R16, R91, R103). The list of moves to come is also the interleaving: `letCore` gives the core
one step before the host's next move (R87, R111). -/
inductive HostMove
  /-- WR and RD: one access to the register block. -/
  | access (a : Access)
  /-- The host fills IN from an offset on; LOADIN is the case of offset 0. -/
  | fillIn (off : Nat) (bytes : List Byte)
  /-- The host stores into the output space while no compression is in progress (I6). -/
  | fillOut (off : Nat) (bytes : List Byte)
  /-- RDOUT: the host reads OUT[0 .. n-1]. -/
  | readOut (n : Nat)
  /-- WAIT: the host reads STATUS until DONE = 1. -/
  | wait
  /-- The host lets the core take one step. -/
  | letCore
  /-- Reset is applied. -/
  | reset
  deriving DecidableEq, Repr

/-- A segment (of the given unit width) or a header (no width) presented directly: its first bytes and how many zero bytes
follow. The model's own way in, log entry 2. -/
structure Slot where
  width : Option Width
  head : List Byte
  pad : Nat
  deriving DecidableEq, Repr

/-- The state of the machine. -/
structure State where
  /-- CTRL.FORCE_WIDE (R18). -/
  forceWide : Bool
  /-- CTRL.UNIT_WIDTH (R18), stored as written. -/
  unitWidth : Byte
  /-- IN_LEN (R19). -/
  inLen : Word
  /-- STATUS.BUSY (R20). -/
  busy : Bool
  /-- STATUS.DONE (R20). -/
  done : Bool
  /-- STATUS.ERR (R20, R93). -/
  err : BitVec 4
  /-- OUT_LEN (R21). -/
  outLen : Word
  /-- HDR_LEN (R22). -/
  hdrLen : Word
  /-- HDR_W0 (R22). -/
  hdrW0 : Word
  /-- HDR_W1 (R22). -/
  hdrW1 : Word
  /-- PHASE (R24). -/
  phase : Phase
  /-- WB (R24). -/
  wb : Width
  /-- FW (R24). -/
  fw : Bool
  /-- LLEN (R24), below 2^32; also the output capacity. -/
  llen : Nat
  /-- NU (R24). -/
  nu : Nat
  /-- POS (R24, R25). -/
  pos : Nat
  /-- LIT_START (R24). -/
  litStart : Nat
  /-- LIT_CNT (R24). -/
  litCnt : Nat
  /-- OUT_CNT (R24). -/
  outCnt : Nat
  /-- The trace (R29), not hardware state. -/
  trace : List Segment
  /-- The input space (R32). -/
  inMem : Memory
  /-- The output space (R32). -/
  outMem : Memory
  /-- The OUT bytes the host has stored since the last START: a START leaves them known, as it does not leave those an earlier
  compression wrote (R31, R36, I6). -/
  hostOut : Memory
  /-- MAX_INPUT_BYTES (R8, I4): the platform's cap on the length a host starts with. An OPEN parameter taken as an argument of
  the step; no step changes it (log entry 13). -/
  inputCap : Nat
  /-- The synchronisation point of R42: the host has read STATUS with DONE = 1 since the last START or reset. -/
  doneSeen : Bool
  /-- The model's own: the draw of `Config.outByte` that stands for OUT's bytes of no known value. -/
  outDraw : Nat
  /-- The model's own: the prefixes of OUT, by their length, whose bytes of no known value stand for another draw, because an
  earlier compression wrote there; lengths strictly rising, the first that holds an offset counts. -/
  outStale : List (Nat × Nat)
  /-- The model's own: the next draw not used yet. -/
  draws : Nat
  /-- The model's own: the value the host's last register read returned (R86). -/
  rdata : Word
  /-- The model's own: the bytes the host's last read of OUT returned (R91). -/
  rdOut : List Byte
  /-- The model's own: the host's moves to come. -/
  hostq : List HostMove
  /-- The model's own: a code presented directly. -/
  slot : Option Slot
  deriving DecidableEq, Repr

/-- Why the machine stops with a fault. The spec's own errors are no faults: they end a compression (R97). -/
inductive Fault
  /-- Raised by the host moves that fill IN or OUT or read OUT: an offset of 2^32-1 or above, which no IN or OUT space has
  (R8, R32). Safe: the model stops. -/
  | outsideSpace
  deriving DecidableEq, Repr

/-- Why the model gives no next state. Each is safe: nothing is claimed of what follows. -/
inductive Refusal
  /-- An instruction with no meaning yet, by its mnemonic; raised in exec's arms only. Safe. -/
  | notModelled (mnemonic : String)
  /-- Raised by the fetch of a register access that is not 32 bits wide or not at one of the seven offsets (R23, I15). Safe. -/
  | accessHasNoMeaning
  /-- Raised by the fetch when the code presented directly is cut short. Safe. -/
  | truncatedCode
  /-- Raised by an internal operation, a segment form or a header form in a state in which the spec does not select it
  (R56, the format column of opcode_table.json). Safe. -/
  | notSelected
  /-- Raised by EMIT_RUN and EMIT_LIT for operands outside their legal ranges (R75, R76). Safe. -/
  | illegalOperands
  /-- Raised by HDR_RESERVED: TYPE = 11 is never written by the core and the reference decode rejects it (R55). Safe. -/
  | reservedType
  /-- Raised by the host filling IN while BUSY = 1, which R106 forbids (I17). Safe. -/
  | hostWritesInWhileBusy
  /-- Raised by the host storing into OUT while BUSY = 1, which R107 forbids (I17). Safe. -/
  | hostWritesOutWhileBusy
  /-- Raised by the host's START of a compression of more than MAX_INPUT_BYTES bytes (I4). Safe. -/
  | lengthAboveCap
  deriving DecidableEq, Repr

/-- The state right after reset (R31). IN and OUT list no byte (log entries 4 and 5); the model's own fields are at the
values of log entries 1, 2, 5 and 8, the parameter MAX_INPUT_BYTES at the greatest value R8 allows (log entry 13), and no
STATUS has been read with DONE = 1 (R42). -/
def State.reset : State where
  forceWide := false
  unitWidth := 0
  inLen := 0
  busy := false
  done := false
  err := 0
  outLen := 0
  hdrLen := 0
  hdrW0 := 0
  hdrW1 := 0
  phase := .idle
  wb := .w1
  fw := false
  llen := 0
  nu := 0
  pos := 0
  litStart := 0
  litCnt := 0
  outCnt := 0
  trace := []
  inMem := []
  outMem := []
  hostOut := []
  inputCap := 2 ^ 32 - 1
  doneSeen := false
  outDraw := 0
  outStale := []
  draws := 1
  rdata := 0
  rdOut := []
  hostq := []
  slot := none

end Sys2Proof.Machine
end

