-- ==== Sys2Proof/Machine/Ops.lean ====
section
/-! DEFINITION. The named operations over memory and registers, the expansion check with the write of a segment, and the
abort, which is this block's trap entry (R97). There is no return from an abort (R99). -/

namespace Sys2Proof.Machine

/-! ## Byte spaces -/

/-- The known value of a byte, none where there is none. -/
def Memory.read? (m : Memory) (a : Nat) : Option Byte :=
  match m with
  | [] => none
  | (x, b) :: rest => if a = x then some b else Memory.read? rest a

/-- Sets the byte at a, keeping the offsets strictly rising. -/
def Memory.write (m : Memory) (a : Nat) (b : Byte) : Memory :=
  match m with
  | [] => [(a, b)]
  | (x, c) :: rest =>
    if a < x then (a, b) :: (x, c) :: rest
    else if a = x then (a, b) :: rest
    else (x, c) :: Memory.write rest a b

/-- R36: the bytes of s at a, a+1, ... -/
def Memory.writeBytes (m : Memory) (a : Nat) (s : List Byte) : Memory :=
  match s with
  | [] => m
  | b :: rest => Memory.writeBytes (Memory.write m a b) (a + 1) rest

/-- The bytes at the offsets that satisfy p stay known, the others lose their known value. -/
def Memory.keep (m : Memory) (p : Nat → Bool) : Memory := m.filter fun c => p c.1

/-- Every offset listed is above `lo`, offsets strictly rising. -/
def Memory.risingFrom (lo : Nat) (m : Memory) : Bool :=
  match m with
  | [] => true
  | (x, _) :: rest => decide (lo ≤ x) && Memory.risingFrom (x + 1) rest

/-- The canonical form: the offsets strictly rise. What an unlisted offset reads as is 'no known value', which no entry
holds. -/
def Memory.wf (m : Memory) : Bool := Memory.risingFrom 0 m

/-- The number of offsets an IN or OUT space can have: LEN is at most 2^32-1 (R8, R32). -/
def spaceSize : Nat := 2 ^ 32 - 1

/-- `MemRead(IN, a, 1)` (R33): the host's content of IN. -/
def memIn (s : State) (a : Nat) : Byte := (s.inMem.read? a).getD (Config.inByte a)

/-- The draw that stands for offset a: that of the first stale prefix that holds it, else `base`. -/
def drawAt (base : Nat) (stale : List (Nat × Nat)) (a : Nat) : Nat :=
  match stale with
  | [] => base
  | (n, d) :: rest => if a < n then d else drawAt base rest a

/-- The byte of OUT at a: its known value, else the free byte of its draw (R31, R36, I5, I6, I19). -/
def outByte (s : State) (a : Nat) : Byte :=
  (s.outMem.read? a).getD (Config.outByte (drawAt s.outDraw s.outStale a) a)

/-- `OUT <- unspecified` (R97): no byte of OUT has a known value, and the draw is a fresh one. -/
def forgetOut (s : State) : State :=
  { s with outMem := [], hostOut := [], outDraw := s.draws, outStale := [], draws := s.draws + 1 }

/-- The prefix of length n stands for draw d; shorter prefixes are inside it. -/
def pushStale (n d : Nat) (stale : List (Nat × Nat)) : List (Nat × Nat) :=
  if n = 0 then stale else (n, d) :: stale.filter fun e => decide (n < e.1)

/-- What a START does to the knowledge of OUT (R31, I6): a byte that an earlier compression wrote, at an offset below OUT_CNT,
has no known value any more unless the host has stored there since; its value is that of a fresh draw. Every other byte keeps
its value (R36). After an error OUT was forgotten already (R97). -/
def staleOut (s : State) : State :=
  { s with
    outMem := s.outMem.keep fun a => decide (s.outCnt ≤ a) || (s.hostOut.read? a).isSome
    hostOut := []
    outStale := if s.err = 0 then pushStale s.outCnt s.draws s.outStale else s.outStale
    draws := s.draws + 1 }

/-! ## The result registers and the trace -/

/-- OUT_LEN, HDR_LEN, HDR_W0 and HDR_W1 to 0 (R85, R97). -/
def clearResults (s : State) : State :=
  { s with outLen := 0, hdrLen := 0, hdrW0 := 0, hdrW1 := 0 }

/-- `emit(seg)` (R14, R29): the trace grows by one record. -/
def record (seg : Segment) (s : State) : State :=
  { s with trace := s.trace ++ [seg] }

/-! ## Abort -/

/-- The error kinds of R92. The core raises the first two only (R96). -/
inductive ErrKind
  | invalidUnitWidth | expansionOverflow | allocationFailure | sourceReadFailure
  deriving DecidableEq, Repr

/-- The error codes of R93. -/
def errCode (e : ErrKind) : BitVec 4 :=
  match e with
  | .invalidUnitWidth => 1
  | .expansionOverflow => 2
  | .allocationFailure => 3
  | .sourceReadFailure => 4

/-- STATUS <- {BUSY, DONE, ERR} (R20, R27). -/
def setStatus (busy done : Bool) (err : BitVec 4) (s : State) : State :=
  { s with busy := busy, done := done, err := err }

/-- R97: the abort. POS, LIT_START, LIT_CNT, OUT_CNT and the trace keep their values. That an InvalidUnitWidth abort also
leaves OUT unspecified is DEDUCED, log entry 6. -/
def abort (e : ErrKind) (s : State) : State :=
  forgetOut (clearResults (setStatus false true (errCode e) { s with phase := .idle }))

/-! ## Writing a segment -/

/-- How an emit ends: with its bytes written, or raised, the abort already taken. -/
inductive EmitResult
  | ok (s : State)
  | raised (s : State)
  deriving DecidableEq, Repr

/-- `check(size)` (R73): the new total, none where it exceeds LLEN. Exact arithmetic. -/
def check (size : Nat) (s : State) : Option Nat :=
  if s.outCnt + size ≤ s.llen then some (s.outCnt + size) else none

/-- The bytes of a segment at OUT_CNT, and the new total (R72, R75, R76). -/
def appendOut (total : Nat) (bytes : List Byte) (s : State) : State :=
  { s with outMem := s.outMem.writeBytes s.outCnt bytes, outCnt := total }

/-- The common part of the emits (R72, R73, R75, R76): record, check, write the bytes at OUT_CNT, advance OUT_CNT. -/
def emitSegment (seg : Segment) (size : Nat) (bytes : List Byte) (s : State) : EmitResult :=
  match check size s with
  | some t => .ok (appendOut t bytes (record seg s))
  | none => .raised (abort .expansionOverflow (record seg s))

/-- An emit as an operation of its own: an abort is a next state too (R97). -/
def EmitResult.outcome (r : EmitResult) : Host.Outcome State Fault Refusal :=
  match r with
  | .ok s => .next s
  | .raised s => .next s

/-- The header registers from the header bytes (R22). -/
def loadHeader (len w0 w1 : Word) (s : State) : State :=
  { s with hdrLen := len, hdrW0 := w0, hdrW1 := w1 }

end Sys2Proof.Machine
end

