-- ==== Sys2Proof/Machine/Operands.lean ====
section
/-! DEFINITION. The parameters that follow from W (R8), the units of the input (R34, R35), and the Segmenter's threshold,
trigger and run length (R60 to R62). -/

namespace Sys2Proof.Machine

/-! ## Parameters (R8) -/

/-- W in bytes. -/
def widthBytes (w : Width) : Nat :=
  match w with
  | .w1 => 1
  | .w2 => 2
  | .w4 => 4

/-- MAX_SIGNED(W). -/
def maxSigned (w : Width) : Nat := 2 ^ (8 * widthBytes w - 1) - 1

/-- MAX_RUN(W) = MAX_SIGNED(W) + 2. -/
def maxRun (w : Width) : Nat := maxSigned w + 2

/-- MAX_LIT(W) = -MIN_SIGNED(W). -/
def maxLit (w : Width) : Nat := 2 ^ (8 * widthBytes w - 1)

/-- The unit width a UNIT_WIDTH value stands for, none where it is not legal (R18, R94). -/
def legalWidth (unitWidth : Byte) : Option Width :=
  if unitWidth = 8 then some .w1
  else if unitWidth = 16 then some .w2
  else if unitWidth = 32 then some .w4
  else none

/-- NU = ceil(LEN / W) (R8). -/
def unitCount (len : Nat) (w : Width) : Nat := (len + widthBytes w - 1) / widthBytes w

/-! ## Units of an input -/

/-- U(i) of a padded input (R35). -/
def unitOf (inp : Nat → Byte) (w : Width) (i : Nat) : List Byte :=
  bytesFrom inp (i * widthBytes w) (widthBytes w)

/-- T(WB, LIT_CNT) (R60). -/
def thresholdOf (w : Width) (litCnt : Nat) : Nat :=
  if w = .w1 ∧ litCnt = 0 then 2 else 3

/-- trigger(POS) (R61): the T units at pos exist and equal the first of them. -/
def triggerOf (u : Nat → List Byte) (w : Width) (nu pos litCnt : Nat) : Bool :=
  decide (pos + thresholdOf w litCnt ≤ nu) &&
    (List.range (thresholdOf w litCnt - 1)).all fun k => decide (u (pos + (k + 1)) = u pos)

/-- The loop of runlen (R62), at most `fuel` turns. -/
def extendRun (u : Nat → List Byte) (w : Width) (nu pos : Nat) (fuel l : Nat) : Nat :=
  match fuel with
  | 0 => l
  | fuel + 1 =>
    if pos + l < nu ∧ l < maxRun w ∧ u (pos + l) = u pos then extendRun u w nu pos fuel (l + 1) else l

/-- runlen(POS) (R62); it takes fewer than NU - POS turns. -/
def runLenOf (u : Nat → List Byte) (w : Width) (nu pos litCnt : Nat) : Nat :=
  extendRun u w nu pos (nu - pos) (thresholdOf w litCnt)

/-! ## Units of the state's input -/

/-- INP(x) (R34): the input byte below LLEN, 0x00 made by the core above. -/
def inp (s : State) (x : Nat) : Byte := if x < s.llen then memIn s x else 0

/-- U(i) (R35). -/
def unit (s : State) (i : Nat) : List Byte := unitOf (inp s) s.wb i

/-- T (R60). -/
def threshold (s : State) : Nat := thresholdOf s.wb s.litCnt

/-- trigger(POS) (R61). -/
def trigger (s : State) : Bool := triggerOf (unit s) s.wb s.nu s.pos s.litCnt

/-- runlen(POS) (R62). -/
def runLen (s : State) : Nat := runLenOf (unit s) s.wb s.nu s.pos s.litCnt

/-! ## Selection of a core step (R56, R87) -/

/-- The operation selected while PHASE = SCAN: SCAN_END if POS = NU, else SCAN_RUN if trigger(POS), else SCAN_LIT. -/
def selectOp (s : State) : Instr :=
  if s.pos = s.nu then .scanEnd
  else if trigger s then .scanRun
  else .scanLit

end Sys2Proof.Machine
end

