-- ==== Sys2Proof/Machine/Flags.lean ====
section
/-! DEFINITION. The flags (R27) and the words the host reads (R18 to R22, R86). -/

namespace Sys2Proof.Machine

/-- The STATUS word (R20): BUSY in bit 0, DONE in bit 1, ERR in 7:4, every other bit 0. -/
def statusWord (s : State) : Word :=
  (0 : BitVec 24) ++ s.err ++ (0 : BitVec 2) ++ BitVec.ofBool s.done ++ BitVec.ofBool s.busy

/-- The value a read of a register returns (R86): reserved bits and START read 0, and the results read 0 while BUSY. -/
def regValue (s : State) (r : Reg) : Word :=
  match r with
  | .ctrl => ctrlWord s.unitWidth s.forceWide false
  | .inLen => s.inLen
  | .status => statusWord s
  | .outLen => if s.busy then 0 else s.outLen
  | .hdrLen => if s.busy then 0 else s.hdrLen
  | .hdrW0 => if s.busy then 0 else s.hdrW0
  | .hdrW1 => if s.busy then 0 else s.hdrW1

/-- WIDE (R80): the 32-bit size form when FW = 1 or LLEN > 65535. -/
def wideOf (fw : Bool) (llen : Nat) : Bool := fw || decide (65535 < llen)

/-- TYPE (R52). -/
def typeOf (w : Width) : BitVec 2 :=
  match w with
  | .w1 => 0
  | .w2 => 1
  | .w4 => 2

end Sys2Proof.Machine
end

