-- ==== Sys2Proof/Machine/HostRegs.lean ====
section
/-! DEFINITION. The host's operations on the register block: START, CONFIG and READ (R84 to R86). -/

namespace Sys2Proof.Machine

/-- The CONFIG part of a CTRL write (R18). -/
def storeCtrl (unitWidth : Byte) (forceWide : Bool) (s : State) : State :=
  { s with unitWidth := unitWidth, forceWide := forceWide }

/-- The latching part of START on a legal width (R85). -/
def latch (w : Width) (s : State) : State :=
  setStatus true false 0
    { s with
      wb := w
      fw := s.forceWide
      llen := s.inLen.toNat
      nu := unitCount s.inLen.toNat w
      pos := 0
      litStart := 0
      litCnt := 0
      outCnt := 0
      phase := .scan }

/-- START after its CONFIG part (R85): clear the results and the trace, check the width, then latch, or abort with
InvalidUnitWidth (R94). START does not clear OUT; what an earlier compression wrote there has no known value any more (R31).
The host has not seen the new compression's DONE (R42). -/
def startScan (s : State) : State :=
  let s1 := { clearResults s with trace := [], doneSeen := false }
  match legalWidth s1.unitWidth with
  | none => abort .invalidUnitWidth s1
  | some w => latch w (staleOut s1)

/-- START (R85); ignored while BUSY, its CONFIG part included (D6). -/
def execStart (unitWidth : Byte) (forceWide : Bool) (s : State) : Host.Outcome State Fault Refusal :=
  if s.busy then .next s else .next (startScan (storeCtrl unitWidth forceWide s))

/-- CONFIG (R84); ignored while BUSY, and always for a read-only register. -/
def execConfig (c : ConfigWrite) (s : State) : Host.Outcome State Fault Refusal :=
  if s.busy then .next s
  else
    match c with
    | .ctrl unitWidth forceWide => .next (storeCtrl unitWidth forceWide s)
    | .inLen len => .next { s with inLen := len }
    | .readOnly _ _ => .next s

/-- R42: a read of STATUS with DONE = 1 is the synchronisation point; every other read leaves what the host has seen. -/
def seesDone (r : Reg) (s : State) : Bool := s.doneSeen || (decide (r = .status) && s.done)

/-- READ (R86): the host gets the value; nothing of the core changes. -/
def execRead (r : Reg) (s : State) : Host.Outcome State Fault Refusal :=
  .next { s with rdata := regValue s r, doneSeen := seesDone r s }

end Sys2Proof.Machine
end

