-- ==== Sys2Proof/Machine/SegmentForms.lean ====
section
/-! DEFINITION. The segment formats as operations (R46 to R48; rows RUN8 to LIT32 of opcode_table.json): the Segment Encoder
emits exactly this segment. The format column gives each its unit width; in another width, or outside a compression, the
form is not selected. DESIGN CHOICE, log entry 10, safe. -/

namespace Sys2Proof.Machine

/-- A segment form of width w: record, check, write, advance (R72, R73). -/
def emitForm (w : Width) (seg : Segment) (size : Nat) (bytes : List Byte) (s : State) :
    Host.Outcome State Fault Refusal :=
  if s.phase = .scan ∧ s.wb = w then (emitSegment seg size bytes s).outcome
  else .refused .notSelected

/-- RUN8 (R47, R75). -/
def execRun8 (n : BitVec 7) (p : Byte) (s : State) : Host.Outcome State Fault Refusal :=
  emitForm .w1 (.run (n.toNat + 2) [p]) 2 [(0 : BitVec 1) ++ n, p] s

/-- LIT8 (R48, R76): the literal starts at LIT_START. DEDUCED, log entry 16. -/
def execLit8 (f : BitVec 7) (units : List Byte) (s : State) : Host.Outcome State Fault Refusal :=
  emitForm .w1 (.lit s.litStart (litCount8 f)) (1 * (1 + litCount8 f)) (((1 : BitVec 1) ++ f) :: units) s

/-- RUN16 (R47, R75). -/
def execRun16 (n : BitVec 15) (p : BitVec 16) (s : State) : Host.Outcome State Fault Refusal :=
  emitForm .w2 (.run (n.toNat + 2) (bytes16 p)) 4 (bytes16 ((0 : BitVec 1) ++ n) ++ bytes16 p) s

/-- LIT16 (R48, R76). -/
def execLit16 (f : BitVec 15) (units : List Byte) (s : State) : Host.Outcome State Fault Refusal :=
  emitForm .w2 (.lit s.litStart (litCount16 f)) (2 * (1 + litCount16 f)) (bytes16 ((1 : BitVec 1) ++ f) ++ units) s

/-- RUN32 (R47, R75). -/
def execRun32 (n : BitVec 31) (p : BitVec 32) (s : State) : Host.Outcome State Fault Refusal :=
  emitForm .w4 (.run (n.toNat + 2) (bytes32 p)) 8 (bytes32 ((0 : BitVec 1) ++ n) ++ bytes32 p) s

/-- LIT32 (R48, R76). -/
def execLit32 (f : BitVec 31) (units : List Byte) (s : State) : Host.Outcome State Fault Refusal :=
  emitForm .w4 (.lit s.litStart (litCount32 f)) (4 * (1 + litCount32 f)) (bytes32 ((1 : BitVec 1) ++ f) ++ units) s

end Sys2Proof.Machine
end

