-- ==== Sys2Proof/Machine/HeaderBuilder.lean ====
section
/-! DEFINITION. The Header Builder (R80, R81) and the header formats as operations (R51 to R55; rows HDR8_SHORT to
HDR_RESERVED of opcode_table.json). -/

namespace Sys2Proof.Machine

/-- The header registers of the 16-bit size form (R22, R53). -/
def loadShort (type : BitVec 2) (size : BitVec 16) (s : State) : State :=
  loadHeader 4 (hdrWord0 type false ++ size) 0 s

/-- The header registers of the 32-bit size form (R22, R54): HDR_W0 ends in the two padding bytes. -/
def loadWide (type : BitVec 2) (size : BitVec 32) (s : State) : State :=
  loadHeader 8 (hdrWord0 type true ++ (0 : BitVec 16)) size s

/-- HDR_BUILD as called by SCAN_END (R81). -/
def buildHeader (s : State) : State :=
  if wideOf s.fw s.llen then loadWide (typeOf s.wb) (BitVec.ofNat 32 s.llen) s
  else loadShort (typeOf s.wb) (BitVec.ofNat 16 s.llen) s

/-- HDR_BUILD (R81) as an operation: only inside a compression (R83). DESIGN CHOICE, log entry 10, safe. -/
def execHdrBuild (s : State) : Host.Outcome State Fault Refusal :=
  if s.phase = .scan then .next (buildHeader s) else .refused .notSelected

/-- A header form is the one HDR_BUILD builds in this state: TYPE, WIDE and size are those of R80 and R81. -/
def headerSelected (w : Width) (wide : Bool) (size : Nat) (s : State) : Bool :=
  decide (s.phase = .scan ∧ s.wb = w ∧ wideOf s.fw s.llen = wide ∧ size = s.llen)

/-- HDR8_SHORT (R53, R81). -/
def execHdr8Short (size : BitVec 16) (s : State) : Host.Outcome State Fault Refusal :=
  if headerSelected .w1 false size.toNat s then .next (loadShort 0 size s) else .refused .notSelected

/-- HDR16_SHORT (R53, R81). -/
def execHdr16Short (size : BitVec 16) (s : State) : Host.Outcome State Fault Refusal :=
  if headerSelected .w2 false size.toNat s then .next (loadShort 1 size s) else .refused .notSelected

/-- HDR32_SHORT (R53, R81). -/
def execHdr32Short (size : BitVec 16) (s : State) : Host.Outcome State Fault Refusal :=
  if headerSelected .w4 false size.toNat s then .next (loadShort 2 size s) else .refused .notSelected

/-- HDR8_WIDE (R54, R81). -/
def execHdr8Wide (size : BitVec 32) (s : State) : Host.Outcome State Fault Refusal :=
  if headerSelected .w1 true size.toNat s then .next (loadWide 0 size s) else .refused .notSelected

/-- HDR16_WIDE (R54, R81). -/
def execHdr16Wide (size : BitVec 32) (s : State) : Host.Outcome State Fault Refusal :=
  if headerSelected .w2 true size.toNat s then .next (loadWide 1 size s) else .refused .notSelected

/-- HDR32_WIDE (R54, R81). -/
def execHdr32Wide (size : BitVec 32) (s : State) : Host.Outcome State Fault Refusal :=
  if headerSelected .w4 true size.toNat s then .next (loadWide 2 size s) else .refused .notSelected

/-- HDR_RESERVED (R55): never produced by the core, and no effect is given. -/
def execHdrReserved (_hi : BitVec 5) (_lo : BitVec 9) (_s : State) : Host.Outcome State Fault Refusal :=
  .refused .reservedType

end Sys2Proof.Machine
end

