-- ==== Sys2Proof/Machine/SegmentEncoder.lean ====
section
/-! DEFINITION. The Segment Encoder: EMIT_RUN and EMIT_LIT (R72 to R76). -/

namespace Sys2Proof.Machine

/-- EMIT_RUN(L, p) as called by the Segmenter (R75). -/
def emitRun (l : Nat) (p : List Byte) (s : State) : EmitResult :=
  emitSegment (.run l p) (2 * widthBytes s.wb) (be (l - 2) (widthBytes s.wb) ++ p) s

/-- EMIT_LIT(s, K) as called by the Segmenter (R76): the units are the input bytes, zero padding included. -/
def emitLit (start k : Nat) (s : State) : EmitResult :=
  emitSegment (.lit start k) (widthBytes s.wb * (1 + k))
    (beSigned (-(k : Int)) (widthBytes s.wb) ++ bytesFrom (inp s) (start * widthBytes s.wb) (k * widthBytes s.wb)) s

/-- EMIT_RUN (R75) as an operation: only inside a core step (PHASE = SCAN), for 2 <= L <= MAX_RUN(WB) and a pattern of one
unit. DESIGN CHOICE, log entry 10, safe. -/
def execEmitRun (l : Nat) (p : List Byte) (s : State) : Host.Outcome State Fault Refusal :=
  if s.phase ≠ .scan then .refused .notSelected
  else if 2 ≤ l ∧ l ≤ maxRun s.wb ∧ p.length = widthBytes s.wb then (emitRun l p s).outcome
  else .refused .illegalOperands

/-- EMIT_LIT (R76) as an operation: only inside a core step, for 1 <= K <= MAX_LIT(WB) units of the input. DESIGN CHOICE,
log entry 10, safe. -/
def execEmitLit (start k : Nat) (s : State) : Host.Outcome State Fault Refusal :=
  if s.phase ≠ .scan then .refused .notSelected
  else if 1 ≤ k ∧ k ≤ maxLit s.wb ∧ start + k ≤ s.nu then (emitLit start k s).outcome
  else .refused .illegalOperands

end Sys2Proof.Machine
end

