-- ==== Sys2Proof/Machine/Segmenter.lean ====
section
/-! DEFINITION. The Segmenter's three decisions (R63 to R68). Each is refused where R56 does not select it: DESIGN CHOICE, log
entry 10, safe. -/

namespace Sys2Proof.Machine

/-- LIT_CNT <- 0: no literal is pending (R66 to R68). -/
def clearLit (s : State) : State := { s with litCnt := 0 }

/-- POS <- POS + L (R63). -/
def advance (l : Nat) (s : State) : State := { s with pos := s.pos + l }

/-- Flush causes (a) and (c) (R66, R68): the pending literal, if there is one, is emitted and LIT_CNT becomes 0. -/
def flushLit (s : State) : EmitResult :=
  if 0 < s.litCnt then
    match emitLit s.litStart s.litCnt s with
    | .ok s1 => .ok (clearLit s1)
    | .raised s1 => .raised s1
  else .ok s

/-- SCAN_RUN once it is selected (R63). -/
def scanRun (s : State) : State :=
  match flushLit s with
  | .raised s1 => s1
  | .ok s1 =>
    match emitRun (runLen s) (unit s s.pos) s1 with
    | .raised s2 => s2
    | .ok s2 => advance (runLen s) s2

/-- The unit at POS joins the pending literal (R64). -/
def takeUnit (s : State) : State :=
  { s with
    litStart := if s.litCnt = 0 then s.pos else s.litStart
    litCnt := s.litCnt + 1
    pos := s.pos + 1 }

/-- SCAN_LIT once it is selected (R64), with the cap flush (R67). -/
def scanLit (s : State) : State :=
  let s1 := takeUnit s
  if s1.litCnt = maxLit s1.wb then
    match emitLit s1.litStart s1.litCnt s1 with
    | .raised s2 => s2
    | .ok s2 => clearLit s2
  else s1

/-- The end of a successful compression (R65): OUT_LEN, STATUS, PHASE. -/
def finish (s : State) : State :=
  setStatus false true 0 { s with outLen := BitVec.ofNat 32 s.outCnt, phase := .idle }

/-- SCAN_END once it is selected (R65). -/
def scanEnd (s : State) : State :=
  match flushLit s with
  | .raised s1 => s1
  | .ok s1 => finish (buildHeader s1)

/-- SCAN_RUN (R63). -/
def execScanRun (s : State) : Host.Outcome State Fault Refusal :=
  if s.phase = .scan ∧ s.pos < s.nu ∧ trigger s = true then .next (scanRun s) else .refused .notSelected

/-- SCAN_LIT (R64). -/
def execScanLit (s : State) : Host.Outcome State Fault Refusal :=
  if s.phase = .scan ∧ s.pos < s.nu ∧ trigger s = false then .next (scanLit s) else .refused .notSelected

/-- SCAN_END (R65). -/
def execScanEnd (s : State) : Host.Outcome State Fault Refusal :=
  if s.phase = .scan ∧ s.pos = s.nu then .next (scanEnd s) else .refused .notSelected

end Sys2Proof.Machine
end

