-- ==== Sys2Proof/Machine/Dispatch.lean ====
section
/-! DEFINITION. One arm per constructor of Instr. -/

namespace Sys2Proof.Machine

def exec (i : Instr) (s : State) : Host.Outcome State Fault Refusal :=
  match i with
  | .run8 n p => Sys2Proof.Machine.execRun8 n p s
  | .lit8 f units => Sys2Proof.Machine.execLit8 f units s
  | .run16 n p => Sys2Proof.Machine.execRun16 n p s
  | .lit16 f units => Sys2Proof.Machine.execLit16 f units s
  | .run32 n p => Sys2Proof.Machine.execRun32 n p s
  | .lit32 f units => Sys2Proof.Machine.execLit32 f units s
  | .hdr8Short size => Sys2Proof.Machine.execHdr8Short size s
  | .hdr16Short size => Sys2Proof.Machine.execHdr16Short size s
  | .hdr32Short size => Sys2Proof.Machine.execHdr32Short size s
  | .hdr8Wide size => Sys2Proof.Machine.execHdr8Wide size s
  | .hdr16Wide size => Sys2Proof.Machine.execHdr16Wide size s
  | .hdr32Wide size => Sys2Proof.Machine.execHdr32Wide size s
  | .hdrReserved hi lo => Sys2Proof.Machine.execHdrReserved hi lo s
  | .start unitWidth forceWide => Sys2Proof.Machine.execStart unitWidth forceWide s
  | .config c => Sys2Proof.Machine.execConfig c s
  | .read r => Sys2Proof.Machine.execRead r s
  | .scanRun => Sys2Proof.Machine.execScanRun s
  | .scanLit => Sys2Proof.Machine.execScanLit s
  | .scanEnd => Sys2Proof.Machine.execScanEnd s
  | .emitRun l p => Sys2Proof.Machine.execEmitRun l p s
  | .emitLit start k => Sys2Proof.Machine.execEmitLit start k s
  | .hdrBuild => Sys2Proof.Machine.execHdrBuild s

end Sys2Proof.Machine
end

