-- ==== Sys2Proof/Machine/Fetch.lean ====
section
/-! DEFINITION. What the machine does next: the code presented directly, the host's next move, or the core's step (R16, R87,
R91), and how a table word is placed so that the next step runs it. -/

namespace Sys2Proof.Machine

/-- What comes next: an operation to run from a state, or a host move that is already complete. -/
inductive Fetched
  | run (i : Instr) (s : State)
  | moved (o : Host.Outcome State Fault Refusal)

/-- The core's turn (R87): the selected operation while PHASE = SCAN; while IDLE the core has no step and the state stays
(log entry 3). -/
def coreTurn (s : State) : Fetched :=
  if s.phase = .scan then .run (selectOp s) s else .moved (.next s)

/-- The host fills IN (R91, R105); while BUSY it must not (R106). -/
def hostFillIn (off : Nat) (bytes : List Byte) (s : State) : Host.Outcome State Fault Refusal :=
  if s.busy then .refused .hostWritesInWhileBusy
  else if spaceSize < off + bytes.length then .fault .outsideSpace
  else .next { s with inMem := s.inMem.writeBytes off bytes }

/-- The host stores into OUT (I6); while BUSY it must not (R107). -/
def hostFillOut (off : Nat) (bytes : List Byte) (s : State) : Host.Outcome State Fault Refusal :=
  if s.busy then .refused .hostWritesOutWhileBusy
  else if spaceSize < off + bytes.length then .fault .outsideSpace
  else .next { s with outMem := s.outMem.writeBytes off bytes, hostOut := s.hostOut.writeBytes off bytes }

/-- R42: the host may rely on OUT, once it has read STATUS with DONE = 1. -/
def outVisible (s : State) : Bool := s.doneSeen && !s.busy

/-- RDOUT n (R91): OUT[0 .. n-1]; before the host has read STATUS with DONE = 1 each read returns unspecified values (R42), a
fresh draw (log entry 7). -/
def hostReadOut (n : Nat) (s : State) : Host.Outcome State Fault Refusal :=
  if spaceSize < n then .fault .outsideSpace
  else if outVisible s then .next { s with rdOut := (List.range n).map (outByte s) }
  else .next { s with rdOut := (List.range n).map (Config.outByte s.draws), draws := s.draws + 1 }

/-- Reset (R103, R31): every register at its reset value, the trace empty, OUT unspecified, IN unchanged; what belongs to the
host (its moves to come, what it has read) and the platform's parameter stay, log entry 18. -/
def hostReset (s : State) : State :=
  forgetOut { State.reset with
    inMem := s.inMem
    inputCap := s.inputCap
    outDraw := s.outDraw
    draws := s.draws
    rdata := s.rdata
    rdOut := s.rdOut
    hostq := s.hostq }

/-- I4: the operation is a START that would begin a compression (BUSY = 0, a legal width) of more than MAX_INPUT_BYTES bytes. -/
def startsAboveCap (i : Instr) (s : State) : Bool :=
  match i with
  | .start unitWidth _ => !s.busy && (legalWidth unitWidth).isSome && decide (s.inputCap < s.inLen.toNat)
  | _ => false

/-- A register access: decoded and run, refused where it has no meaning (R23) or is a START above the cap (I4). -/
def accessTurn (a : Access) (s : State) : Fetched :=
  match decodeAccess a with
  | .ok i => if startsAboveCap i s then .moved (.refused .lengthAboveCap) else .run i s
  | .error _ => .moved (.refused .accessHasNoMeaning)

/-- WAIT (R91): the host reads STATUS until DONE = 1; until then the core takes its steps. Log entry 19. -/
def waitTurn (s rest : State) : Fetched :=
  if s.done then .run (.read .status) rest else coreTurn s

/-- The host's next move, in a state whose list of moves is `m` and then that of `rest`. -/
def hostTurn (m : HostMove) (s rest : State) : Fetched :=
  match m with
  | .access a => accessTurn a rest
  | .fillIn off bytes => .moved (hostFillIn off bytes rest)
  | .fillOut off bytes => .moved (hostFillOut off bytes rest)
  | .readOut n => .moved (hostReadOut n rest)
  | .wait => waitTurn s rest
  | .letCore => coreTurn rest
  | .reset => .moved (.next (hostReset rest))

/-- The code presented directly (log entry 2). -/
def slotTurn (c : Slot) (s : State) : Fetched :=
  match decodePadded c.width c.head c.pad with
  | .ok i => .run i s
  | .error _ => .moved (.refused .truncatedCode)

/-- The host's moves still to come become q. -/
def withHostq (q : List HostMove) (s : State) : State := { s with hostq := q }

/-- The code presented directly is taken. -/
def takeSlot (s : State) : State := { s with slot := none }

/-- What the machine does next: a code presented directly comes first, then the host's moves, then the core. -/
def fetch (s : State) : Fetched :=
  match s.slot with
  | some c => slotTurn c (takeSlot s)
  | none =>
    match s.hostq with
    | m :: q => hostTurn m s (withHostq q s)
    | [] => coreTurn s

/-- A compression in progress of the given width, length and size form, as START leaves it (R85). -/
def inProgress (w : Width) (forceWide : Bool) (len : Word) (s : State) : State :=
  startScan (storeCtrl (BitVec.ofNat 8 (8 * widthBytes w)) forceWide { s with inLen := len })

/-- The width a header's word0 gives (R52); a reserved type needs none. -/
def headerWidth (word0 : BitVec 16) : Width :=
  if word0.extractLsb' 9 2 = 1 then .w2 else if word0.extractLsb' 9 2 = 2 then .w4 else .w1

/-- Places a table word where the next step fetches it (log entry 15): a CTRL write as the host's next move; a segment in a
compression of its width and of the greatest length; a header in a compression whose header it is (its size bytes are 0). -/
def placeTableWord (s : State) (nbits w : Nat) : State :=
  match tableWord nbits w with
  | .ctrl v => { s with slot := none, hostq := .access ⟨true, regOffset .ctrl, 4, v⟩ :: s.hostq }
  | .seg width head => { inProgress width false 0xFFFFFFFF s with slot := some ⟨some width, head, longestCode⟩ }
  | .hdr head =>
    let word0 := BitVec.ofNat 16 w
    { inProgress (headerWidth word0) (word0.getLsbD 3) 0 s with slot := some ⟨none, head, longestCode⟩ }

end Sys2Proof.Machine
end

