-- ==== Sys2Proof/Machine/Step.lean ====
section
/-! DEFINITION. One step of the machine. -/

namespace Sys2Proof.Machine

/-- Runs what was fetched: an operation by `exec`, a host move by its own outcome. -/
def perform (f : Fetched) : Host.Outcome State Fault Refusal :=
  match f with
  | .run i t => exec i t
  | .moved o => o

/-- One step: what `fetch` finds, performed. -/
def step (s : State) : Host.Outcome State Fault Refusal := perform (fetch s)

/-- s with the operation whose table word is w stored where `step` fetches next (log entry 15). -/
def State.withFetchWord (s : State) (nbits w : Nat) : State := placeTableWord s nbits w

end Sys2Proof.Machine
end

