-- ==== Sys2Proof/Machine/Oracle.lean ====
section
/-! DEFINITION. The functions the spec gives beside the machine: the Segmenter as a function (R69), the bytes of a segment
(R47, R48), the compress function (R88) and the reference decode (R58), a test oracle that is no hardware (R6). No step
calls them; the statements compare the machine with them. -/

namespace Sys2Proof.Machine

/-! ## The Segmenter as a function (R69) -/

/-- The loop of `segments`, at most `fuel` turns, from cursor pos with lc pending units from ls on. -/
def segLoop (u : Nat → List Byte) (w : Width) (nu fuel pos ls lc : Nat) : List Segment :=
  match fuel with
  | 0 => if 0 < lc then [.lit ls lc] else []
  | fuel + 1 =>
    if pos < nu then
      if triggerOf u w nu pos lc then
        (if 0 < lc then [.lit ls lc] else []) ++
          .run (runLenOf u w nu pos lc) (u pos) :: segLoop u w nu fuel (pos + runLenOf u w nu pos lc) ls 0
      else if lc + 1 = maxLit w then
        .lit (if lc = 0 then pos else ls) (lc + 1) ::
          segLoop u w nu fuel (pos + 1) (if lc = 0 then pos else ls) 0
      else segLoop u w nu fuel (pos + 1) (if lc = 0 then pos else ls) (lc + 1)
    else if 0 < lc then [.lit ls lc] else []

/-- `segments(U, NU, WB)` (R69); every turn moves the cursor, so NU turns are enough. -/
def segments (u : Nat → List Byte) (nu : Nat) (w : Width) : List Segment :=
  segLoop u w nu nu 0 0 0

/-! ## Segments as bytes (R47, R48, R72) -/

/-- The size of a segment in bytes (R72). -/
def segSize (w : Width) (seg : Segment) : Nat :=
  match seg with
  | .run _ _ => 2 * widthBytes w
  | .lit _ k => widthBytes w * (1 + k)

/-- The bytes of a segment of the padded input `inp` (R47, R48). -/
def segBytes (inp : Nat → Byte) (w : Width) (seg : Segment) : List Byte :=
  match seg with
  | .run l p => be (l - 2) (widthBytes w) ++ p
  | .lit start k =>
    beSigned (-(k : Int)) (widthBytes w) ++ bytesFrom inp (start * widthBytes w) (k * widthBytes w)

/-- The compressed stream of a list of segments (R45). -/
def streamBytes (inp : Nat → Byte) (w : Width) (segs : List Segment) : List Byte :=
  segs.flatMap (segBytes inp w)

/-- The header of R53 and R54, its form chosen by R80. -/
def headerBytes (w : Width) (forceWide : Bool) (len : Nat) : List Byte :=
  if wideOf forceWide len then wideHeader (typeOf w) (BitVec.ofNat 32 len)
  else shortHeader (typeOf w) (BitVec.ofNat 16 len)

/-! ## The compress function (R88) -/

/-- A padded input (R34) from its bytes: the bytes of the list, 0x00 above. -/
def paddedInput (input : List Byte) (x : Nat) : Byte := input.getD x 0

/-- The compressed stream of an input in width w, before the expansion check. -/
def rawStream (input : List Byte) (w : Width) : List Byte :=
  streamBytes (paddedInput input) w
    (segments (unitOf (paddedInput input) w) (unitCount input.length w) w)

/-- `compress` (R88): the compressed stream and the header, or the error. -/
def compressOf (input : List Byte) (unitWidth : Byte) (forceWide : Bool) : Except ErrKind (List Byte × List Byte) :=
  match legalWidth unitWidth with
  | none => .error .invalidUnitWidth
  | some w =>
    if input.length < (rawStream input w).length then .error .expansionOverflow
    else .ok (rawStream input w, headerBytes w forceWide input.length)

/-! ## The reference decode (R58) -/

/-- What a segment expands to; nothing for an operation that is no segment. -/
def expand (i : Instr) : List Byte :=
  match i with
  | .run8 n p => List.replicate (n.toNat + 2) p
  | .lit8 _ us => us
  | .run16 n p => (List.replicate (n.toNat + 2) (bytes16 p)).flatten
  | .lit16 _ us => us
  | .run32 n p => (List.replicate (n.toNat + 2) (bytes32 p)).flatten
  | .lit32 _ us => us
  | _ => []

/-- The expansion of a whole stream of unit width w, none where it is rejected; at most `fuel` segments. -/
def decodeStream (w : Width) (fuel : Nat) (bs : List Byte) : Option (List Byte) :=
  match bs with
  | [] => some []
  | b :: rest =>
    match fuel with
    | 0 => none
    | fuel + 1 =>
      match decodeSeg w (b :: rest).length fun i => (b :: rest).getD i 0 with
      | .error _ => none
      | .ok i => (decodeStream w fuel ((b :: rest).drop (encodedSize i))).map (expand i ++ ·)

/-- The width, the size field and the length of a header; none for what is no header and for the reserved type (R55). -/
def headerInfo (i : Instr) : Option (Width × Nat × Nat) :=
  match i with
  | .hdr8Short size => some (.w1, size.toNat, 4)
  | .hdr16Short size => some (.w2, size.toNat, 4)
  | .hdr32Short size => some (.w4, size.toNat, 4)
  | .hdr8Wide size => some (.w1, size.toNat, 8)
  | .hdr16Wide size => some (.w2, size.toNat, 8)
  | .hdr32Wide size => some (.w4, size.toNat, 8)
  | _ => none

/-- `decode(F)` (R58): the original bytes of a file, none where the decode rejects it. -/
def refDecode (file : List Byte) : Option (List Byte) :=
  match decodeHdr file.length fun i => file.getD i 0 with
  | .error _ => none
  | .ok i =>
    match headerInfo i with
    | none => none
    | some (w, len, p) =>
      match decodeStream w file.length (file.drop p) with
      | none => none
      | some out => if out.length < len then none else some (out.take len)

end Sys2Proof.Machine
end

