-- ==== Sys2Proof/Safety.lean ====
section
/-! DEFINITION. The terms claims use: the invariant of the machine (R20 to R22, R24, R26), what a core step reads, and what it
means that the core runs on its own. -/

namespace Sys2Proof.Machine

/-! ## The invariant, part by part -/

/-- R20: the STATUS combinations that can be reached, with BUSY = 1 exactly while PHASE = SCAN (R24), and only the error codes
the core writes (R93). -/
def StatusLegal (s : State) : Prop :=
  (s.busy = true ↔ s.phase = .scan) ∧
  (s.busy = true → s.done = false ∧ s.err = 0) ∧
  (s.err ≠ 0 → s.done = true) ∧
  (s.err = 0 ∨ s.err = 1 ∨ s.err = 2)

/-- R21, R22: the result registers are 0 but after a success, and after a success they hold a header of 4 or 8 bytes and
OUT_CNT, at most LLEN. -/
def ResultsLegal (s : State) : Prop :=
  (¬ (s.done = true ∧ s.err = 0) → s.outLen = 0 ∧ s.hdrLen = 0 ∧ s.hdrW0 = 0 ∧ s.hdrW1 = 0) ∧
  (s.done = true ∧ s.err = 0 →
    (s.hdrLen = 4 ∧ s.hdrW1 = 0 ∨ s.hdrLen = 8) ∧ s.outLen.toNat = s.outCnt)

/-- R24: the legal values of the datapath registers, which also bound them to their 32 bits. -/
def DatapathLegal (s : State) : Prop :=
  s.llen < 2 ^ 32 ∧ s.nu = unitCount s.llen s.wb ∧ s.pos ≤ s.nu ∧ s.litStart ≤ s.nu ∧
  s.litCnt ≤ s.pos ∧ s.outCnt ≤ s.llen

/-- The units a list of segments covers from unit a on, none where a literal does not start where the segment before it
ended (R26 (5)). -/
def coverFrom (a : Nat) (segs : List Segment) : Option Nat :=
  match segs with
  | [] => some a
  | .run l _ :: rest => coverFrom (a + l) rest
  | .lit start k :: rest => if start = a then coverFrom (a + k) rest else none

/-- The bytes all the segments of the trace take (R26 (4)). -/
def traceSize (w : Width) (segs : List Segment) : Nat := (segs.map (segSize w)).sum

/-- R26: what holds between any two core steps of one compression, (3) standing in `DatapathLegal`; and every run recorded has
a pattern of one unit (R75). -/
def ScanLegal (s : State) : Prop :=
  s.phase = .scan →
    (0 < s.litCnt → s.litStart + s.litCnt = s.pos) ∧
    s.litCnt < maxLit s.wb ∧
    s.outCnt = traceSize s.wb s.trace ∧
    coverFrom 0 s.trace = some (s.pos - s.litCnt) ∧
    ∀ l p, Segment.run l p ∈ s.trace → p.length = widthBytes s.wb

/-- R8, I4: MAX_INPUT_BYTES is at most 2^32-1, and no compression is of more bytes. -/
def CapLegal (s : State) : Prop := s.inputCap < 2 ^ 32 ∧ s.llen ≤ s.inputCap

/-- R42: the host has seen DONE = 1 only where DONE is 1. -/
def SyncLegal (s : State) : Prop := s.doneSeen = true → s.done = true

/-- Both byte spaces, and the record of the host's stores, are in their canonical form. -/
def MemoriesLegal (s : State) : Prop := s.inMem.wf = true ∧ s.outMem.wf = true ∧ s.hostOut.wf = true

/-- The invariant: nothing is presented directly (log entry 2), and R8's bound on MAX_INPUT_BYTES, R20, R21, R22, R24, R26 and
R42's synchronisation hold. -/
def Inv (s : State) : Prop :=
  s.slot = none ∧ MemoriesLegal s ∧ StatusLegal s ∧ ResultsLegal s ∧ DatapathLegal s ∧ ScanLegal s ∧ CapLegal s ∧
    SyncLegal s

/-- R36, R45: while a compression is in progress OUT begins with the bytes of the segments emitted so far. -/
def OutHoldsTrace (s : State) : Prop :=
  s.phase = .scan → ∀ a, a < s.outCnt →
    s.outMem.read? a = (streamBytes (inp s) s.wb s.trace)[a]?

/-! ## Terms of claims -/

/-- Nothing but the core moves: no host move is pending and nothing is presented directly. -/
def CoreAlone (s : State) : Prop := s.hostq = [] ∧ s.slot = none

/-- The input the host has filled in, IN[0 .. IN_LEN-1]. -/
def inputOf (s : State) : List Byte := (List.range s.inLen.toNat).map (memIn s)

/-- The header bytes a host gets from HDR_LEN, HDR_W0 and HDR_W1 (R22). -/
def headerOf (s : State) : List Byte :=
  if s.hdrLen = 4 then bytes32 s.hdrW0
  else if s.hdrLen = 8 then bytes32 s.hdrW0 ++ bytes32 s.hdrW1
  else []

/-- The compressed stream a host reads after a success, OUT[0 .. OUT_LEN-1] (R45). -/
def streamOf (s : State) : List Byte := (List.range s.outLen.toNat).map (outByte s)

/-- Two states with the same registers, the host's and the datapath's, and the same IN below LLEN. IN at LLEN and above, OUT,
the trace, the parameter and everything that is the host's or the model's own may differ. -/
def SameToCore (s t : State) : Prop :=
  t = { s with
    trace := t.trace, inMem := t.inMem, outMem := t.outMem, hostOut := t.hostOut, outStale := t.outStale, inputCap := t.inputCap, doneSeen := t.doneSeen
    outDraw := t.outDraw, draws := t.draws, rdata := t.rdata, rdOut := t.rdOut, hostq := t.hostq, slot := t.slot } ∧
  ∀ a, a < s.llen → memIn t a = memIn s a

/-- The segments the rest of the scan will produce (R69), from the cursor and the pending literal on. -/
def restOfScan (s : State) : List Segment :=
  segLoop (unit s) s.wb s.nu (s.nu - s.pos) s.pos s.litStart s.litCnt

/-- The segments of a list with the unit each starts at, the first at unit a. -/
def placed (a : Nat) (segs : List Segment) : List (Nat × Segment) :=
  match segs with
  | [] => []
  | .run l p :: rest => (a, .run l p) :: placed (a + l) rest
  | .lit start k :: rest => (a, .lit start k) :: placed (a + k) rest

/-- The host's duty of I4: the length it starts with is within its cap. -/
def HostWithinCap (s : State) : Prop := s.inLen.toNat ≤ s.inputCap

end Sys2Proof.Machine
end

