-- ==== Sys2Proof/Certificates/Slice0/Obligations.lean ====
section
/-! DEFINITION. The statements about the machine that the provers are asked for. Each docstring names what it formalises. -/

open Sys2Proof Sys2Proof.Machine

/-! ## Reset and the machine's steps -/

/-- What reset leaves, at power-on and applied at any time: the reset value of every register, an empty trace, the input
space unchanged, and every OUT byte a free value (R31; that a free value is a draw of `Config.outByte` is the model's choice, log
entry 5). And after a success a START on a legal width makes every OUT byte that the compression before wrote, and the host has
not stored since, a fresh free value: that this happens at START, and the exception for the host's bytes, are the model's reading
of R31's last sentence with I6 and R36 (DEDUCED, log entry 5). -/
def Obligations.ResetValues : Prop :=
  (∀ t : State, (t = State.reset ∨ ∃ s q, s.slot = none ∧ s.hostq = .reset :: q ∧ step s = .next t) →
    (∀ r, regValue t r = 0) ∧
    t.forceWide = false ∧ t.unitWidth = 0 ∧ t.inLen = 0 ∧ t.busy = false ∧ t.done = false ∧ t.err = 0 ∧
    t.outLen = 0 ∧ t.hdrLen = 0 ∧ t.hdrW0 = 0 ∧ t.hdrW1 = 0 ∧
    t.phase = .idle ∧ t.wb = .w1 ∧ t.fw = false ∧ t.llen = 0 ∧ t.nu = 0 ∧ t.pos = 0 ∧ t.litStart = 0 ∧
    t.litCnt = 0 ∧ t.outCnt = 0 ∧ t.trace = [] ∧ ∃ d, ∀ a, outByte t a = Config.outByte d a) ∧
  (∀ (s : State) (q : List HostMove), s.slot = none → s.hostq = .reset :: q →
    ∃ t, step s = .next t ∧ t.inMem = s.inMem ∧ ∀ a, outByte t a = Config.outByte s.draws a) ∧
  ∀ (s t : State) (uw : Byte) (fw : Bool) (w : Width), s.busy = false → uw.toNat = 8 * widthBytes w →
    exec (.start uw fw) s = .next t → s.err = 0 → ∀ a, a < s.outCnt → s.hostOut.read? a = none →
    t.outMem.read? a = none ∧ outByte t a = Config.outByte s.draws a

/-- A step runs the decoded operation. A code presented directly is decoded and run (log entry 2); a register access at the
head of the host's moves is decoded and run, unless it is a START above the host's cap; with no host move pending and PHASE = SCAN the selected operation runs (R87);
with no host move pending and PHASE = IDLE the state stays (R87, log entry 3); the host may let the core take one step; a
WAIT at the head is over when DONE = 1. -/
def Obligations.StepRunsDecodedOperation : Prop :=
  (∀ (s : State) (c : Slot) (i : Instr), s.slot = some c → decodePadded c.width c.head c.pad = .ok i →
    step s = exec i { s with slot := none }) ∧
  (∀ (s : State) (a : Access) (q : List HostMove) (i : Instr), s.slot = none → s.hostq = .access a :: q →
    decodeAccess a = .ok i →
    ((∀ uw fw, i = .start uw fw → s.busy = true ∨ (uw ≠ 8 ∧ uw ≠ 16 ∧ uw ≠ 32) ∨ s.inLen.toNat ≤ s.inputCap) →
      step s = exec i { s with hostq := q })) ∧
  (∀ s : State, CoreAlone s → s.phase = .scan → step s = exec (selectOp s) s) ∧
  (∀ s : State, CoreAlone s → s.phase = .idle → step s = .next s) ∧
  (∀ (s : State) (q : List HostMove), s.slot = none → s.hostq = .letCore :: q → s.phase = .scan →
    step s = exec (selectOp { s with hostq := q }) { s with hostq := q }) ∧
  (∀ (s : State) (q : List HostMove), s.slot = none → s.hostq = .letCore :: q → s.phase = .idle →
    step s = .next { s with hostq := q }) ∧
  (∀ (s : State) (q : List HostMove), s.slot = none → s.hostq = .wait :: q → s.done = true →
    step s = exec (.read .status) { s with hostq := q }) ∧
  (∀ (s : State) (q : List HostMove), s.slot = none → s.hostq = .wait :: q → s.done = false → s.phase = .scan →
    step s = exec (selectOp s) s)

/-- R23: a register access that is not an aligned 32-bit access to one of the seven offsets is refused, in every state; every
other access is decoded. -/
def Obligations.AccessesWithoutMeaningRefused : Prop :=
  ∀ (s : State) (a : Access) (q : List HostMove), s.slot = none → s.hostq = .access a :: q →
    (a.size ≠ 4 ∨ a.offset ∉ [0x00, 0x04, 0x08, 0x0C, 0x10, 0x14, 0x18] →
      step s = .refused .accessHasNoMeaning) ∧
    (a.size = 4 ∧ a.offset ∈ [0x00, 0x04, 0x08, 0x0C, 0x10, 0x14, 0x18] → ∃ i, decodeAccess a = .ok i)

/-! ## Host operations -/

/-- R18: the CTRL register. A write while BUSY = 0 stores FORCE_WIDE and UNIT_WIDTH, whatever their values, and then starts if
bit 0 is 1; a write while BUSY = 1 is ignored; a read returns the fields with START and the reserved bits 0. -/
def Obligations.CtrlFields : Prop :=
  ∀ (s : State) (v : Word),
    (∃ i, decodeAccess ⟨true, 0x00, 4, v⟩ = .ok i ∧
      exec i s = .next (
        if s.busy then s
        else if v.getLsbD 0 then startScan { s with forceWide := v.getLsbD 1, unitWidth := BitVec.ofNat 8 (v.toNat / 256) }
        else { s with forceWide := v.getLsbD 1, unitWidth := BitVec.ofNat 8 (v.toNat / 256) })) ∧
    (regValue s .ctrl).toNat = s.unitWidth.toNat * 256 + (if s.forceWide then 2 else 0)

/-- R84: CONFIG. A CTRL write with bit 0 = 0 and an IN_LEN write decode to CONFIG with v[15:8], v[1] and v. While BUSY = 0 the
first stores its two fields and the second the length, and nothing else changes; a write to a read-only register changes
nothing; while BUSY = 1 every one of them is ignored. -/
def Obligations.ConfigStores : Prop :=
  (∀ v : Word,
    (v.getLsbD 0 = false → decodeAccess ⟨true, 0x00, 4, v⟩ =
      .ok (.config (.ctrl (BitVec.ofNat 8 (v.toNat / 256)) (v.getLsbD 1)))) ∧
    decodeAccess ⟨true, 0x04, 4, v⟩ = .ok (.config (.inLen v))) ∧
  ∀ s : State,
    (s.busy = false →
      (∀ uw fw, exec (.config (.ctrl uw fw)) s = .next { s with unitWidth := uw, forceWide := fw }) ∧
      (∀ len, exec (.config (.inLen len)) s = .next { s with inLen := len })) ∧
    (∀ r v, exec (.config (.readOnly r v)) s = .next s) ∧
    (s.busy = true → ∀ c, exec (.config c) s = .next s)

/-- R85, on a legal width: a CTRL write with bit 0 = 1 decodes to START with v[15:8] and v[1]; with UNIT_WIDTH = 8 * WB, START
stores the fields, clears results and trace, latches the configuration, counts the units and enters SCAN with BUSY = 1;
the host has not seen DONE since (R42, log entry 7); IN and everything else are as before. OUT is not cleared. What becomes of the
knowledge of OUT (outMem, hostOut, outStale, draws) is the model's, log entry 5 (DEDUCED from R31, R36 and I6, its form a DESIGN
CHOICE): bytes at OUT_CNT and above and those the host has stored stay known, those an earlier compression wrote do not. -/
def Obligations.StartLatches : Prop :=
  (∀ v : Word, v.getLsbD 0 = true → decodeAccess ⟨true, 0x00, 4, v⟩ =
    .ok (.start (BitVec.ofNat 8 (v.toNat / 256)) (v.getLsbD 1))) ∧
  ∀ (s : State) (uw : Byte) (fw : Bool) (w : Width), s.busy = false → uw.toNat = 8 * widthBytes w →
    legalWidth uw = some w ∧
    exec (.start uw fw) s = .next { s with
      unitWidth := uw, forceWide := fw, doneSeen := false
      outLen := 0, hdrLen := 0, hdrW0 := 0, hdrW1 := 0, trace := []
      wb := w, fw := fw, llen := s.inLen.toNat, nu := (s.inLen.toNat + widthBytes w - 1) / widthBytes w
      pos := 0, litStart := 0, litCnt := 0, outCnt := 0
      busy := true, done := false, err := 0, phase := .scan
      outMem := s.outMem.keep fun a => decide (s.outCnt ≤ a) || (s.hostOut.read? a).isSome
      hostOut := []
      outStale := if s.err = 0 then pushStale s.outCnt s.draws s.outStale else s.outStale
      draws := s.draws + 1 }

/-- R94, R85 on an illegal width: START ends at once with ERR = 1: STATUS reads 0x12, the results read 0, nothing is latched,
PHASE is IDLE, IN is as before and no datapath register but PHASE is written. That OUT's bytes are free values afterwards is
the model's reading of R97 (log entry 6). -/
def Obligations.StartRejectsIllegalWidth : Prop :=
  ∀ (s : State) (uw : Byte) (fw : Bool), s.busy = false → uw ≠ 8 → uw ≠ 16 → uw ≠ 32 →
    exec (.start uw fw) s = .next { s with
      unitWidth := uw, forceWide := fw, doneSeen := false
      outLen := 0, hdrLen := 0, hdrW0 := 0, hdrW1 := 0, trace := []
      busy := false, done := true, err := 1, phase := .idle
      outMem := [], hostOut := [], outDraw := s.draws, outStale := [], draws := s.draws + 1 }

/-- R109, D6: a START written while BUSY = 1 is lost, its CONFIG part included. -/
def Obligations.StartWhileBusyLost : Prop :=
  ∀ (s : State) (uw : Byte) (fw : Bool), s.busy = true → exec (.start uw fw) s = .next s

/-- R27: the flags. A START accepted sets BUSY and clears DONE and ERR on a legal width, and ends at once with ERR = 1 on an
illegal one; every other operation leaves the three flags and PHASE alone, unless it ends the compression in progress: with
ERR = 2 by an abort, or SCAN_END with success. -/
def Obligations.FlagsWritten : Prop :=
  ∀ (i : Instr) (s t : State), exec i s = .next t →
    (∀ uw fw, i = .start uw fw → s.busy = false →
      (uw = 8 ∨ uw = 16 ∨ uw = 32 → t.busy = true ∧ t.done = false ∧ t.err = 0) ∧
      (uw ≠ 8 ∧ uw ≠ 16 ∧ uw ≠ 32 → t.busy = false ∧ t.done = true ∧ t.err = 1)) ∧
    ((∀ uw fw, i = .start uw fw → s.busy = true) →
      t.phase = s.phase ∧ t.busy = s.busy ∧ t.done = s.done ∧ t.err = s.err ∨
      s.phase = .scan ∧ t.phase = .idle ∧ t.busy = false ∧ t.done = true ∧ (t.err = 2 ∨ i = .scanEnd ∧ t.err = 0))

/-- R86: READ returns the register's value and has no side effect on the core (the model notes what the host got, and whether
it has now read STATUS with DONE = 1, R42): the fields of CTRL and STATUS at their bits with every other
bit 0, IN_LEN, and the result registers, which read 0 while BUSY = 1. -/
def Obligations.ReadReturnsRegister : Prop :=
  ∀ (s : State) (r : Reg), ∃ v,
    exec (.read r) s = .next { s with rdata := v, doneSeen := s.doneSeen || (decide (r = .status) && s.done) } ∧
    (r = .ctrl → v.toNat = s.unitWidth.toNat * 256 + (if s.forceWide then 2 else 0)) ∧
    (r = .inLen → v = s.inLen) ∧
    (r = .status → v.toNat = s.err.toNat * 16 + (if s.done then 2 else 0) + (if s.busy then 1 else 0)) ∧
    (r = .outLen → v = if s.busy then 0 else s.outLen) ∧
    (r = .hdrLen → v = if s.busy then 0 else s.hdrLen) ∧
    (r = .hdrW0 → v = if s.busy then 0 else s.hdrW0) ∧
    (r = .hdrW1 → v = if s.busy then 0 else s.hdrW1)

/-- The host's other moves (R91, R105 to R107): filling IN and OUT while idle writes exactly the bytes given, filling either
while BUSY is refused, and reading OUT returns its bytes once the host has read STATUS with DONE = 1, fresh free values
before that and while BUSY (R42, log entry 7). The bound on offsets is
the model's (log entry 14). -/
def Obligations.HostMovesOnSpaces : Prop :=
  ∀ (s : State) (q : List HostMove), s.slot = none →
    (∀ off bytes, s.hostq = .fillIn off bytes :: q → s.busy = false → off + bytes.length < 2 ^ 32 →
      ∃ t, step s = .next t ∧ t = { s with hostq := q, inMem := t.inMem } ∧
        ∀ a, memIn t a = if off ≤ a ∧ a < off + bytes.length then bytes.getD (a - off) 0 else memIn s a) ∧
    (∀ off bytes, s.hostq = .fillIn off bytes :: q → s.busy = true →
      step s = .refused .hostWritesInWhileBusy) ∧
    (∀ off bytes, s.hostq = .fillOut off bytes :: q → s.busy = false → off + bytes.length < 2 ^ 32 →
      ∃ t, step s = .next t ∧ t = { s with hostq := q, outMem := t.outMem, hostOut := t.hostOut } ∧
        (∀ a, (t.hostOut.read? a).isSome =
          ((s.hostOut.read? a).isSome || decide (off ≤ a ∧ a < off + bytes.length))) ∧
        ∀ a, outByte t a = if off ≤ a ∧ a < off + bytes.length then bytes.getD (a - off) 0 else outByte s a) ∧
    (∀ off bytes, s.hostq = .fillOut off bytes :: q → s.busy = true →
      step s = .refused .hostWritesOutWhileBusy) ∧
    (∀ n, s.hostq = .readOut n :: q → n < 2 ^ 32 → s.doneSeen = true → s.busy = false →
      step s = .next { s with hostq := q, rdOut := (List.range n).map (outByte s) }) ∧
    (∀ n, s.hostq = .readOut n :: q → n < 2 ^ 32 → s.doneSeen = false ∨ s.busy = true →
      step s = .next { s with
        hostq := q, rdOut := (List.range n).map (Config.outByte s.draws), draws := s.draws + 1 })

/-! ## Segmenter -/

/-- R60: the trigger threshold. -/
def Obligations.TriggerThreshold : Prop :=
  ∀ s : State,
    (s.wb = .w1 ∧ s.litCnt = 0 → threshold s = 2) ∧
    (¬ (s.wb = .w1 ∧ s.litCnt = 0) → threshold s = 3)

/-- R61: a run triggers exactly when the T units at POS exist and all equal the first of them, as byte sequences. -/
def Obligations.TriggerMeaning : Prop :=
  ∀ s : State, trigger s = true ↔
    s.pos + threshold s ≤ s.nu ∧ ∀ k, 1 ≤ k → k < threshold s → unit s (s.pos + k) = unit s s.pos

/-- R62: the run length is the largest L with T <= L <= min(MAX_RUN, NU - POS) all of whose units equal U(POS). -/
def Obligations.RunLengthIsGreatest : Prop :=
  ∀ s : State, trigger s = true →
    (threshold s ≤ runLen s ∧ runLen s ≤ maxRun s.wb ∧ s.pos + runLen s ≤ s.nu ∧
      ∀ k, k < runLen s → unit s (s.pos + k) = unit s s.pos) ∧
    (∀ l, threshold s ≤ l → l ≤ maxRun s.wb → s.pos + l ≤ s.nu →
      (∀ k, k < l → unit s (s.pos + k) = unit s s.pos) → l ≤ runLen s)

/-- R34: a byte of the padded input, and the padded last unit: the LLEN mod WB bytes that remain, then zeros. -/
def Obligations.PaddedInput : Prop :=
  ∀ s : State,
    (∀ x, x < s.llen → inp s x = memIn s x) ∧ (∀ x, s.llen ≤ x → inp s x = 0) ∧
    (s.llen % widthBytes s.wb ≠ 0 →
      unit s (unitCount s.llen s.wb - 1) =
        (List.range (s.llen % widthBytes s.wb)).map (fun j => memIn s (s.llen / widthBytes s.wb * widthBytes s.wb + j)) ++
          List.replicate (widthBytes s.wb - s.llen % widthBytes s.wb) 0)

/-- R63: SCAN_RUN. With L = runlen(POS) and p = U(POS): nothing pending, the run is written and POS advances; a literal
pending, it is written first; where the flush or then the run does not fit, the compression is aborted at that segment, the
last of the trace. L = 2 needs WB = 1 and no pending literal. -/
def Obligations.ScanRunEffect : Prop :=
  ∀ s : State, s.phase = .scan → s.pos < s.nu → trigger s = true →
    (runLen s = 2 → s.wb = .w1 ∧ s.litCnt = 0) ∧
    (s.litCnt = 0 → s.outCnt + 2 * widthBytes s.wb ≤ s.llen →
      exec .scanRun s = .next { s with
        trace := s.trace ++ [.run (runLen s) (unit s s.pos)]
        outMem := s.outMem.writeBytes s.outCnt (be (runLen s - 2) (widthBytes s.wb) ++ unit s s.pos)
        outCnt := s.outCnt + 2 * widthBytes s.wb
        pos := s.pos + runLen s }) ∧
    (s.litCnt = 0 → s.llen < s.outCnt + 2 * widthBytes s.wb →
      exec .scanRun s = .next (abort .expansionOverflow
        { s with trace := s.trace ++ [.run (runLen s) (unit s s.pos)] })) ∧
    (0 < s.litCnt → s.llen < s.outCnt + widthBytes s.wb * (1 + s.litCnt) →
      exec .scanRun s = .next (abort .expansionOverflow
        { s with trace := s.trace ++ [.lit s.litStart s.litCnt] })) ∧
    (0 < s.litCnt → s.outCnt + widthBytes s.wb * (1 + s.litCnt) ≤ s.llen →
      s.llen < s.outCnt + widthBytes s.wb * (1 + s.litCnt) + 2 * widthBytes s.wb →
      exec .scanRun s = .next (abort .expansionOverflow { s with
        trace := s.trace ++ [.lit s.litStart s.litCnt, .run (runLen s) (unit s s.pos)]
        outCnt := s.outCnt + widthBytes s.wb * (1 + s.litCnt)
        litCnt := 0 })) ∧
    (0 < s.litCnt → s.outCnt + widthBytes s.wb * (1 + s.litCnt) + 2 * widthBytes s.wb ≤ s.llen →
      exec .scanRun s = .next { s with
        trace := s.trace ++ [.lit s.litStart s.litCnt, .run (runLen s) (unit s s.pos)]
        outMem := (s.outMem.writeBytes s.outCnt (segBytes (inp s) s.wb (.lit s.litStart s.litCnt))).writeBytes
          (s.outCnt + widthBytes s.wb * (1 + s.litCnt)) (be (runLen s - 2) (widthBytes s.wb) ++ unit s s.pos)
        outCnt := s.outCnt + widthBytes s.wb * (1 + s.litCnt) + 2 * widthBytes s.wb
        litCnt := 0
        pos := s.pos + runLen s })

/-- R64, R67: SCAN_LIT. The unit at POS joins the pending literal, whose first unit it may be; a literal that thereby reaches
MAX_LIT is written at once, or the compression is aborted where it does not fit. -/
def Obligations.ScanLitEffect : Prop :=
  ∀ s : State, s.phase = .scan → s.pos < s.nu → trigger s = false →
    let ls := if s.litCnt = 0 then s.pos else s.litStart
    (s.litCnt + 1 ≠ maxLit s.wb →
      exec .scanLit s = .next { s with litStart := ls, litCnt := s.litCnt + 1, pos := s.pos + 1 }) ∧
    (s.litCnt + 1 = maxLit s.wb → s.outCnt + widthBytes s.wb * (1 + (s.litCnt + 1)) ≤ s.llen →
      exec .scanLit s = .next { s with
        trace := s.trace ++ [.lit ls (s.litCnt + 1)]
        outMem := s.outMem.writeBytes s.outCnt (segBytes (inp s) s.wb (.lit ls (s.litCnt + 1)))
        outCnt := s.outCnt + widthBytes s.wb * (1 + (s.litCnt + 1))
        litStart := ls
        litCnt := 0
        pos := s.pos + 1 }) ∧
    (s.litCnt + 1 = maxLit s.wb → s.llen < s.outCnt + widthBytes s.wb * (1 + (s.litCnt + 1)) →
      exec .scanLit s = .next (abort .expansionOverflow { s with
        trace := s.trace ++ [.lit ls (s.litCnt + 1)]
        litStart := ls
        litCnt := s.litCnt + 1
        pos := s.pos + 1 }))

/-- R65: SCAN_END. A pending literal is written, or the compression is aborted where it does not fit; then the header is built
and the compression succeeds. -/
def Obligations.ScanEndEffect : Prop :=
  ∀ s : State, s.phase = .scan → s.pos = s.nu →
    (s.litCnt = 0 →
      exec .scanEnd s = .next { buildHeader s with
        outLen := BitVec.ofNat 32 s.outCnt
        busy := false, done := true, err := 0, phase := .idle }) ∧
    (0 < s.litCnt → s.outCnt + widthBytes s.wb * (1 + s.litCnt) ≤ s.llen →
      exec .scanEnd s = .next { buildHeader s with
        trace := s.trace ++ [.lit s.litStart s.litCnt]
        outMem := s.outMem.writeBytes s.outCnt (segBytes (inp s) s.wb (.lit s.litStart s.litCnt))
        outCnt := s.outCnt + widthBytes s.wb * (1 + s.litCnt)
        litCnt := 0
        outLen := BitVec.ofNat 32 (s.outCnt + widthBytes s.wb * (1 + s.litCnt))
        busy := false, done := true, err := 0, phase := .idle }) ∧
    (0 < s.litCnt → s.llen < s.outCnt + widthBytes s.wb * (1 + s.litCnt) →
      exec .scanEnd s = .next (abort .expansionOverflow
        { s with trace := s.trace ++ [.lit s.litStart s.litCnt] }))

/-- R56: while PHASE = SCAN and POS is a legal value, exactly one of the three conditions holds, the selected operation is the
one whose condition holds, and it answers a next state. -/
def Obligations.OneOperationSelected : Prop :=
  ∀ s : State, s.phase = .scan → s.pos ≤ s.nu →
    (selectOp s = .scanEnd ↔ s.pos = s.nu) ∧
    (selectOp s = .scanRun ↔ s.pos < s.nu ∧ trigger s = true) ∧
    (selectOp s = .scanLit ↔ s.pos < s.nu ∧ trigger s = false) ∧
    ∃ t, exec (selectOp s) s = .next t

/-- The operations outside their place (log entry 10, the model's choice) are refused: a Segmenter decision that R56 does not
select, an emit or HDR_BUILD while PHASE = IDLE, an emit with operands outside R75 and R76, a segment form outside a
compression of its width, and a header form that is not the header HDR_BUILD builds here. -/
def Obligations.UnselectedOperationsRefused : Prop :=
  ∀ s : State,
    (¬ (s.phase = .scan ∧ s.pos < s.nu ∧ trigger s = true) → exec .scanRun s = .refused .notSelected) ∧
    (¬ (s.phase = .scan ∧ s.pos < s.nu ∧ trigger s = false) → exec .scanLit s = .refused .notSelected) ∧
    (¬ (s.phase = .scan ∧ s.pos = s.nu) → exec .scanEnd s = .refused .notSelected) ∧
    (s.phase = .idle → ∀ l p st k, exec (.emitRun l p) s = .refused .notSelected ∧
      exec (.emitLit st k) s = .refused .notSelected ∧ exec .hdrBuild s = .refused .notSelected) ∧
    (s.phase = .scan → ∀ l p, ¬ (2 ≤ l ∧ l ≤ maxRun s.wb ∧ p.length = widthBytes s.wb) →
      exec (.emitRun l p) s = .refused .illegalOperands) ∧
    (s.phase = .scan → ∀ st k, ¬ (1 ≤ k ∧ k ≤ maxLit s.wb ∧ st + k ≤ s.nu) →
      exec (.emitLit st k) s = .refused .illegalOperands) ∧
    (∀ i w bytes, encode i = some (.seg w bytes) → ¬ (s.phase = .scan ∧ s.wb = w) →
      exec i s = .refused .notSelected) ∧
    (∀ i w size p, headerInfo i = some (w, size, p) →
      ¬ (s.phase = .scan ∧ s.wb = w ∧ wideOf s.fw s.llen = decide (p = 8) ∧ s.llen = size) →
      exec i s = .refused .notSelected)

/-! ## Segment Encoder -/

/-- R75: EMIT_RUN. The segment is recorded; where it fits, be(L-2, WB) and the pattern are written at OUT_CNT, which grows by
2*WB; where it does not, ExpansionOverflow is raised and nothing is written. -/
def Obligations.EmitRunEffect : Prop :=
  ∀ (s : State) (l : Nat) (p : List Byte), s.phase = .scan → 2 ≤ l → l ≤ maxRun s.wb → p.length = widthBytes s.wb →
    (s.outCnt + 2 * widthBytes s.wb ≤ s.llen →
      exec (.emitRun l p) s = .next { s with
        trace := s.trace ++ [.run l p]
        outMem := (s.outMem.writeBytes s.outCnt (be (l - 2) (widthBytes s.wb))).writeBytes
          (s.outCnt + widthBytes s.wb) p
        outCnt := s.outCnt + 2 * widthBytes s.wb }) ∧
    (s.llen < s.outCnt + 2 * widthBytes s.wb →
      exec (.emitRun l p) s = .next (abort .expansionOverflow { s with trace := s.trace ++ [.run l p] }))

/-- R76: EMIT_LIT. The segment is recorded; where it fits, the field of -K and the K*WB padded input bytes from s*WB on are
written at OUT_CNT, which grows by WB*(1+K); where it does not, ExpansionOverflow is raised and nothing is written. -/
def Obligations.EmitLitEffect : Prop :=
  ∀ (s : State) (st k : Nat), s.phase = .scan → 1 ≤ k → k ≤ maxLit s.wb → st + k ≤ s.nu →
    (s.outCnt + widthBytes s.wb * (1 + k) ≤ s.llen →
      exec (.emitLit st k) s = .next { s with
        trace := s.trace ++ [.lit st k]
        outMem := (s.outMem.writeBytes s.outCnt (beSigned (-(k : Int)) (widthBytes s.wb))).writeBytes
          (s.outCnt + widthBytes s.wb)
          ((List.range (k * widthBytes s.wb)).map fun j => inp s (st * widthBytes s.wb + j))
        outCnt := s.outCnt + widthBytes s.wb * (1 + k) }) ∧
    (s.llen < s.outCnt + widthBytes s.wb * (1 + k) →
      exec (.emitLit st k) s = .next (abort .expansionOverflow { s with trace := s.trace ++ [.lit st k] }))

/-- The width forms RUN8, RUN16 and RUN32 are EMIT_RUN at their width: emitting the run segment whose fields are N and p is
EMIT_RUN(N + 2, the bytes of p) (R47, R75, opcode_table.json). -/
def Obligations.RunFormsAreEmitRun : Prop :=
  ∀ s : State, s.phase = .scan →
    (∀ n p, s.wb = .w1 → exec (.run8 n p) s = exec (.emitRun (n.toNat + 2) [p]) s) ∧
    (∀ n p, s.wb = .w2 → exec (.run16 n p) s = exec (.emitRun (n.toNat + 2) (bytes16 p)) s) ∧
    (∀ n p, s.wb = .w4 → exec (.run32 n p) s = exec (.emitRun (n.toNat + 2) (bytes32 p)) s)

/-- The run forms complete (R47, R75): in a compression of their width, where 2*W bytes fit, the bytes of the encoded segment
are written at OUT_CNT and the run is recorded; where they do not fit the compression is aborted. -/
def Obligations.RunFormsComplete : Prop :=
  ∀ (s : State) (i : Instr) (w : Width) (l : Nat) (p bytes : List Byte), s.phase = .scan → s.wb = w →
    ((∃ n b, i = .run8 n b ∧ l = n.toNat + 2 ∧ p = [b]) ∨ (∃ n b, i = .run16 n b ∧ l = n.toNat + 2 ∧ p = bytes16 b) ∨
      (∃ n b, i = .run32 n b ∧ l = n.toNat + 2 ∧ p = bytes32 b)) →
    encode i = some (.seg w bytes) →
    (s.outCnt + encodedSize i ≤ s.llen →
      exec i s = .next { s with
        trace := s.trace ++ [.run l p]
        outMem := s.outMem.writeBytes s.outCnt bytes
        outCnt := s.outCnt + encodedSize i }) ∧
    (s.llen < s.outCnt + encodedSize i →
      exec i s = .next (abort .expansionOverflow { s with trace := s.trace ++ [.run l p] }))

/-- The literal forms complete (R48, R76): in a compression of their width, where W*(1+K) bytes fit, the bytes of the encoded
segment are written at OUT_CNT and the literal is recorded as starting at LIT_START (log entry 16); where they do not fit
the compression is aborted. -/
def Obligations.LitFormsComplete : Prop :=
  ∀ (s : State) (i : Instr) (w : Width) (k : Nat) (bytes : List Byte), s.phase = .scan → s.wb = w →
    ((∃ f us, i = .lit8 f us ∧ k = 2 ^ 7 - f.toNat) ∨ (∃ f us, i = .lit16 f us ∧ k = 2 ^ 15 - f.toNat) ∨
      (∃ f us, i = .lit32 f us ∧ k = 2 ^ 31 - f.toNat)) →
    encode i = some (.seg w bytes) →
    (s.outCnt + widthBytes w * (1 + k) ≤ s.llen →
      exec i s = .next { s with
        trace := s.trace ++ [.lit s.litStart k]
        outMem := s.outMem.writeBytes s.outCnt bytes
        outCnt := s.outCnt + widthBytes w * (1 + k) }) ∧
    (s.llen < s.outCnt + widthBytes w * (1 + k) →
      exec i s = .next (abort .expansionOverflow { s with trace := s.trace ++ [.lit s.litStart k] }))

/-- R72, R73: the sizes. A run segment has 2*WB bytes and a literal of K units WB*(1+K), and an emit's byte j is found at
OUT_CNT + j afterwards, every byte of OUT outside the segment reading as before; OUT_CNT grows by exactly the size. This is
the memory part of the frame of EMIT_RUN and EMIT_LIT. -/
def Obligations.EmittedBytesStand : Prop :=
  ∀ (s t : State) (i : Instr) (seg : Segment), s.phase = .scan → wellFormed i = true →
    ((∃ l p, i = .emitRun l p ∧ seg = .run l p) ∨ (∃ st k, i = .emitLit st k ∧ seg = .lit st k)) →
    exec i s = .next t → t.phase = .scan →
    (segBytes (inp s) s.wb seg).length = segSize s.wb seg ∧
    t.outCnt = s.outCnt + segSize s.wb seg ∧ t.outCnt ≤ s.llen ∧
    (∀ j, j < segSize s.wb seg → t.outMem.read? (s.outCnt + j) = (segBytes (inp s) s.wb seg)[j]?) ∧
    (∀ a, a < s.outCnt ∨ s.outCnt + segSize s.wb seg ≤ a → outByte t a = outByte s a) ∧
    (∀ a, memIn t a = memIn s a)

/-- The frame of the Segment Encoder's operations RUN8 to LIT32, EMIT_RUN and EMIT_LIT where they do not raise: every register
but OUT_CNT, the trace's earlier entries, IN and every OUT byte outside the segment stored at OUT_CNT are unchanged. -/
def Obligations.EncoderFrame : Prop :=
  ∀ (s t : State) (i : Instr), s.phase = .scan → wellFormed i = true →
    ((∃ n p, i = .run8 n p) ∨ (∃ f us, i = .lit8 f us) ∨ (∃ n p, i = .run16 n p) ∨ (∃ f us, i = .lit16 f us) ∨
      (∃ n p, i = .run32 n p) ∨ (∃ f us, i = .lit32 f us) ∨ (∃ l p, i = .emitRun l p) ∨ (∃ st k, i = .emitLit st k)) →
    exec i s = .next t → t.phase = .scan →
    t = { s with outCnt := t.outCnt, outMem := t.outMem, trace := t.trace } ∧
    (∃ seg, t.trace = s.trace ++ [seg] ∧ t.outCnt = s.outCnt + segSize s.wb seg) ∧
    t.outCnt ≤ s.llen ∧
    (∀ a, a < s.outCnt ∨ t.outCnt ≤ a → t.outMem.read? a = s.outMem.read? a)

/-- R97: the abort, for either error of the core: PHASE, STATUS and the results, OUT unspecified (each byte a free value of a
draw not used before), and every other register kept. -/
def Obligations.AbortEffect : Prop :=
  ∀ (s : State) (e : ErrKind),
    abort e s = { s with
      phase := .idle, busy := false, done := true, err := errCode e
      outLen := 0, hdrLen := 0, hdrW0 := 0, hdrW1 := 0
      outMem := [], hostOut := [], outDraw := s.draws, outStale := [], draws := s.draws + 1 } ∧
    errCode .invalidUnitWidth = 1 ∧ errCode .expansionOverflow = 2 ∧
    (∀ a, outByte (abort e s) a = Config.outByte s.draws a)

/-! ## Header Builder -/

/-- R80: the size form. -/
def Obligations.SizeFormSelection : Prop :=
  ∀ (fw : Bool) (len : Nat), wideOf fw len = true ↔ fw = true ∨ len > 65535

/-- R81: HDR_BUILD. With word0 = TYPE*2^9 + WIDE*2^3, the registers hold the 4-byte or 8-byte header, big-endian, and nothing
else changes. -/
def Obligations.HdrBuildEffect : Prop :=
  ∀ s : State, s.phase = .scan → s.llen < 2 ^ 32 →
    let type := match s.wb with | .w1 => 0 | .w2 => 1 | .w4 => 2
    ∃ t, exec .hdrBuild s = .next t ∧
      t = { s with hdrLen := t.hdrLen, hdrW0 := t.hdrW0, hdrW1 := t.hdrW1 } ∧
      (s.fw = false ∧ s.llen ≤ 65535 →
        t.hdrLen = 4 ∧ t.hdrW0.toNat = beValue (be (type * 2 ^ 9) 2 ++ be s.llen 2) ∧ t.hdrW1 = 0) ∧
      (s.fw = true ∨ 65535 < s.llen →
        t.hdrLen = 8 ∧ t.hdrW0.toNat = beValue (be (type * 2 ^ 9 + 2 ^ 3) 2 ++ [0, 0]) ∧
        t.hdrW1.toNat = beValue (be s.llen 4))

/-- R51 to R54: the header forms as bytes, with word0 = TYPE*2^9 + WIDE*2^3. -/
def Obligations.HeaderFormBytes : Prop :=
  (∀ size : BitVec 16,
    encode (.hdr8Short size) = some (.hdr (be (0 * 2 ^ 9) 2 ++ be size.toNat 2)) ∧
    encode (.hdr16Short size) = some (.hdr (be (1 * 2 ^ 9) 2 ++ be size.toNat 2)) ∧
    encode (.hdr32Short size) = some (.hdr (be (2 * 2 ^ 9) 2 ++ be size.toNat 2))) ∧
  (∀ size : BitVec 32,
    encode (.hdr8Wide size) = some (.hdr (be (0 * 2 ^ 9 + 2 ^ 3) 2 ++ [0x00, 0x00] ++ be size.toNat 4)) ∧
    encode (.hdr16Wide size) = some (.hdr (be (1 * 2 ^ 9 + 2 ^ 3) 2 ++ [0x00, 0x00] ++ be size.toNat 4)) ∧
    encode (.hdr32Wide size) = some (.hdr (be (2 * 2 ^ 9 + 2 ^ 3) 2 ++ [0x00, 0x00] ++ be size.toNat 4)))

/-- The header forms complete: the form with the TYPE of WB, the WIDE of R80 and the size LLEN leaves in the header registers
exactly its encoded bytes (R22), as HDR_BUILD does, and changes nothing else. -/
def Obligations.HeaderFormsComplete : Prop :=
  ∀ (s : State) (i : Instr) (w : Width) (size p : Nat) (bytes : List Byte), s.phase = .scan →
    headerInfo i = some (w, size, p) → encode i = some (.hdr bytes) →
    s.wb = w → s.llen = size → wideOf s.fw s.llen = decide (p = 8) →
    ∃ t, exec i s = .next t ∧ exec .hdrBuild s = .next t ∧
      t = { s with hdrLen := t.hdrLen, hdrW0 := t.hdrW0, hdrW1 := t.hdrW1 } ∧
      headerOf t = bytes ∧ t.hdrLen.toNat = p ∧ bytes.length = p

/-- R55: reserved header encodings. TYPE = 11 is kept apart by the decoder for every value of the other bits, running it is
refused in every state, and the reference decode rejects every file that begins with it; the reference decode ignores the
unassigned bits of word0 and the padding bytes; the core produces none of these. -/
def Obligations.ReservedTypeRejected : Prop :=
  (∀ (s : State) (hi : BitVec 5) (lo : BitVec 9), exec (.hdrReserved hi lo) s = .refused .reservedType) ∧
  (∀ (b0 b1 : Byte) (rest : List Byte), (b0.extractLsb' 1 2 : BitVec 2) = 3 →
    (∃ hi lo, decode (.hdr (b0 :: b1 :: rest)) = .ok (.hdrReserved hi lo)) ∧ refDecode (b0 :: b1 :: rest) = none) ∧
  (∀ (b0 b1 b2 b3 : Byte) (rest : List Byte),
    refDecode (b0 :: b1 :: b2 :: b3 :: rest) =
      if b1.getLsbD 3 then refDecode ((b0 &&& 0x06) :: (b1 &&& 0x08) :: 0 :: 0 :: rest)
      else refDecode ((b0 &&& 0x06) :: (b1 &&& 0x08) :: b2 :: b3 :: rest)) ∧
  (∀ s t : State, exec .hdrBuild s = .next t →
    ∃ (b0 b1 : Byte) (rest : List Byte), headerOf t = b0 :: b1 :: rest ∧ b0 ≠ 0x06 ∧ b0 &&& 0x06 = b0 ∧
      b1 &&& 0x08 = b1 ∧ (b1 = 0x08 → rest.take 2 = [0x00, 0x00]))

/-! ## Frames and whole-machine sentences -/

/-- R32, R33: IN is read only to the core: no operation changes it. -/
def Obligations.NoOperationWritesIn : Prop :=
  ∀ (i : Instr) (s t : State), exec i s = .next t → t.inMem = s.inMem

/-- R18, R19, R24: who writes which register. Only START and CONFIG write CTRL and IN_LEN; only START writes WB, FW, LLEN and
NU; READ, CONFIG and the header operations write no datapath register; only START shortens the trace. -/
def Obligations.RegisterWriters : Prop :=
  ∀ (i : Instr) (s t : State), exec i s = .next t →
    ((∀ uw fw, i ≠ .start uw fw) → (∀ c, i ≠ .config c) →
      t.forceWide = s.forceWide ∧ t.unitWidth = s.unitWidth ∧ t.inLen = s.inLen) ∧
    ((∀ uw fw, i ≠ .start uw fw) →
      t.wb = s.wb ∧ t.fw = s.fw ∧ t.llen = s.llen ∧ t.nu = s.nu ∧ ∃ more, t.trace = s.trace ++ more) ∧
    ((∃ r, i = .read r) ∨ (∃ c, i = .config c) ∨ i = .hdrBuild ∨ (∃ x, headerInfo i = some x) →
      t.phase = s.phase ∧ t.wb = s.wb ∧ t.fw = s.fw ∧ t.llen = s.llen ∧ t.nu = s.nu ∧ t.pos = s.pos ∧
      t.litStart = s.litStart ∧ t.litCnt = s.litCnt ∧ t.outCnt = s.outCnt ∧ t.trace = s.trace ∧
      t.busy = s.busy ∧ t.done = s.done ∧ t.err = s.err ∧ t.outMem = s.outMem ∧ t.hostOut = s.hostOut ∧
      t.outDraw = s.outDraw ∧ t.outStale = s.outStale)

/-- The frame of SCAN_RUN, SCAN_LIT and SCAN_END where they do not raise (R36, R63 to R65): OUT below OUT_CNT and at the new
OUT_CNT or above reads as before, the new OUT_CNT is at most LLEN, and CTRL, IN_LEN, WB, FW, LLEN, NU, IN and, for SCAN_RUN
and SCAN_LIT, STATUS and the results are unchanged. -/
def Obligations.ScanFrame : Prop :=
  ∀ (i : Instr) (s t : State), (i = .scanRun ∨ i = .scanLit ∨ i = .scanEnd) → s.outCnt ≤ s.llen →
    exec i s = .next t → t.err ≠ 2 →
    t = { s with
      pos := t.pos, litStart := t.litStart, litCnt := t.litCnt, outCnt := t.outCnt, trace := t.trace
      outMem := t.outMem, phase := t.phase, busy := t.busy, done := t.done, err := t.err
      outLen := t.outLen, hdrLen := t.hdrLen, hdrW0 := t.hdrW0, hdrW1 := t.hdrW1 } ∧
    s.outCnt ≤ t.outCnt ∧ t.outCnt ≤ t.llen ∧
    (∀ a, a < s.outCnt ∨ t.outCnt ≤ a → outByte t a = outByte s a) ∧
    (i = .scanRun ∨ i = .scanLit →
      t.phase = s.phase ∧ t.busy = s.busy ∧ t.done = s.done ∧ t.err = s.err ∧
      t.outLen = s.outLen ∧ t.hdrLen = s.hdrLen ∧ t.hdrW0 = s.hdrW0 ∧ t.hdrW1 = s.hdrW1)

/-- R33, R87, R32: a core step depends only on the registers and on IN below LLEN: on two states with the same registers and
the same IN below LLEN, whatever OUT, IN above, the trace and the host's side hold, it takes the same operation and leaves the
same registers; it records the same segments, and each OUT byte becomes the same known value in both, becomes unknown in
both, or is left alone in both. -/
def Obligations.StepReadsOnlyInputBelowLlen : Prop :=
  ∀ s t s' : State, SameToCore s t → s.phase = .scan → exec (selectOp s) s = .next s' →
    selectOp t = selectOp s ∧ ∃ t', exec (selectOp t) t = .next t' ∧ SameToCore s' t' ∧
      (∃ more, s'.trace = s.trace ++ more ∧ t'.trace = t.trace ++ more) ∧
      (∀ a, t'.outMem.read? a = s'.outMem.read? a ∨
        s'.outMem.read? a = s.outMem.read? a ∧ t'.outMem.read? a = t.outMem.read? a) ∧
      (s'.draws = s.draws ∧ s'.outStale = s.outStale ∧ t'.outStale = t.outStale ∧ s'.outDraw = s.outDraw ∧ t'.draws = t.draws ∧ t'.outDraw = t.outDraw ∨
        s'.draws = s.draws + 1 ∧ s'.outStale = [] ∧ t'.outStale = [] ∧ s'.outDraw = s.draws ∧ t'.draws = t.draws + 1 ∧ t'.outDraw = t.draws)

/-! ## Invariants and runs -/

/-- The invariant holds at reset (R20, R21, R22, R24, R26). -/
def Obligations.ResetMeetsInvariant : Prop := Inv State.reset ∧ OutHoldsTrace State.reset

/-- Every step keeps the invariant: STATUS and results legal (R20 to R22), datapath registers legal (R24), the relations of
R26, memories canonical, no compression above MAX_INPUT_BYTES (I4), DONE seen only where it is 1 (R42), whatever the host
does. -/
def Obligations.StepKeepsInvariant : Prop :=
  ∀ s t : State, Inv s → step s = .next t → Inv t

/-- Every step keeps this: while a compression is in progress OUT[0 .. OUT_CNT-1] is the concatenation of the bytes of the
segments emitted so far (R36, R45). -/
def Obligations.OutIsStreamOfTrace : Prop :=
  ∀ s t : State, Inv s → OutHoldsTrace s → step s = .next t → OutHoldsTrace t

/-- From every state that meets the invariant, the core on its own always has a next state: with PHASE = SCAN no core step is
refused or faults (R87); with PHASE = IDLE, where R87 gives the core no step, the next state is the model's choice, the state as it
is (log entry 3). -/
def Obligations.CoreNeverStops : Prop :=
  ∀ s : State, Inv s → CoreAlone s → ∃ t, step s = .next t

/-- R25: POS only increases: a core step from a legal state either advances POS, by 1 or by a run length between 2 and
MAX_RUN, staying at or below NU, or it ends the compression with POS at or above where it was and at or below NU, and at NU
where it succeeds. -/
def Obligations.PosOnlyAdvances : Prop :=
  ∀ s t : State, Inv s → s.phase = .scan → exec (selectOp s) s = .next t →
    (t.phase = .scan ∧ t.nu = s.nu ∧ t.pos ≤ t.nu ∧
      (t.pos = s.pos + 1 ∨ (s.pos + 2 ≤ t.pos ∧ t.pos ≤ s.pos + maxRun s.wb))) ∨
    (t.phase = .idle ∧ t.busy = false ∧ t.done = true ∧ t.nu = s.nu ∧ s.pos ≤ t.pos ∧ t.pos ≤ t.nu ∧
      (t.err = 0 → t.pos = t.nu))

/-- R71: the scan ends: from any legal state in SCAN the core on its own is done after at most NU - POS + 1 steps. -/
def Obligations.ScanEnds : Prop :=
  ∀ s : State, Inv s → CoreAlone s → s.phase = .scan →
    ∃ n t, n ≤ s.nu - s.pos + 1 ∧ Host.Core.run core n s = .next t ∧ t.phase = .idle ∧ t.done = true

/-- R69, step by step: after a START on a legal width the trace is empty and what is still to come is segments(U, NU, WB); a
core step that does not raise moves segments from what is still to come to the trace, and changes nothing of the whole; at
the end nothing is left to come. -/
def Obligations.TraceFollowsSegments : Prop :=
  (∀ (s t : State) (uw : Byte) (fw : Bool) (w : Width), s.busy = false → uw.toNat = 8 * widthBytes w →
    exec (.start uw fw) s = .next t → t.wb = w ∧ t.trace = [] ∧ restOfScan t = segments (unit t) t.nu t.wb) ∧
  ∀ s t : State, s.phase = .scan → exec (selectOp s) s = .next t → t.err ≠ 2 →
    (t.phase = .scan → t.trace ++ restOfScan t = s.trace ++ restOfScan s) ∧
    (t.phase = .idle → t.trace = s.trace ++ restOfScan s)

/-- R77, R98, R29: ExpansionOverflow comes at the first segment whose running total exceeds LLEN: the segments before it in the
whole of R69 fit and are OUT_CNT bytes, it does not fit, and it is the last entry of the trace. -/
def Obligations.OverflowAtFirstTooLong : Prop :=
  ∀ s t : State, Inv s → s.phase = .scan → exec (selectOp s) s = .next t → t.err = 2 →
    ∃ (fit : List Segment) (seg : Segment) (later : List Segment),
      t.trace = fit ++ [seg] ∧ fit ++ seg :: later = s.trace ++ restOfScan s ∧
      traceSize s.wb fit = t.outCnt ∧ t.outCnt ≤ s.llen ∧ s.llen < t.outCnt + segSize s.wb seg

/-- R88: the machine computes the compress function. From any idle state with nothing else moving, START and then at most
NU + 1 core steps end with DONE = 1 and the outcome of `compress` on the input the host filled in: its error code with the
results 0, or success with its stream in OUT and its header in the header registers. -/
def Obligations.MachineComputesCompress : Prop :=
  ∀ (s s0 : State) (uw : Byte) (fw : Bool), s.busy = false → CoreAlone s → exec (.start uw fw) s = .next s0 →
    ∃ n t, n ≤ s0.nu + 1 ∧ Host.Core.run core n s0 = .next t ∧ t.busy = false ∧ t.done = true ∧ t.phase = .idle ∧
      match compressOf (inputOf s) uw fw with
      | .error e => t.err = errCode e ∧ t.outLen = 0 ∧ t.hdrLen = 0 ∧ t.hdrW0 = 0 ∧ t.hdrW1 = 0
      | .ok (stream, header) =>
        t.err = 0 ∧ t.outLen.toNat = stream.length ∧ streamOf t = stream ∧ headerOf t = header

/-! ## Encodings -/

/-- Decode and encode agree: for every well-formed operation that has an encoding, the decoder gives it back from its code, every
operand at every value. -/
def Obligations.DecodeEncodeAgree : Prop :=
  ∀ (i : Instr) (c : Code), wellFormed i = true → encode i = some c → decode c = .ok i

/-- What the decoder gives is well-formed. -/
def Obligations.DecodedIsWellFormed : Prop :=
  ∀ (c : Code) (i : Instr), decode c = .ok i → wellFormed i = true

/-- R46, R49, R50: every value of the length field has a meaning: of W bytes read as f, sign bit 0 gives the run of f + 2 units
(2*W bytes in all) and sign bit 1 the literal of K = -f units (W*(1+K) bytes in all), as soon as the bytes are there. -/
def Obligations.EveryFieldDecodes : Prop :=
  ∀ (w : Width) (bs : List Byte), widthBytes w ≤ bs.length →
    let f := beValue (bs.take (widthBytes w))
    (f < maxLit w → 2 * widthBytes w ≤ bs.length →
      ∃ i, decode (.seg w bs) = .ok i ∧ encodedSize i = 2 * widthBytes w ∧
        expand i = (List.replicate (f + 2) ((bs.drop (widthBytes w)).take (widthBytes w))).flatten) ∧
    (maxLit w ≤ f → widthBytes w * (1 + (2 ^ (8 * widthBytes w) - f)) ≤ bs.length →
      ∃ i, decode (.seg w bs) = .ok i ∧ encodedSize i = widthBytes w * (1 + (2 ^ (8 * widthBytes w) - f)) ∧
        expand i = (bs.drop (widthBytes w)).take ((2 ^ (8 * widthBytes w) - f) * widthBytes w))

/-- R38: a unit's value is read big-endian, and writing that value big-endian gives the unit's bytes back. -/
def Obligations.BigEndianReproducesUnit : Prop :=
  (∀ bs : List Byte, beValue bs = ((List.range bs.length).map fun j =>
      (bs.getD j 0).toNat * 2 ^ (8 * (bs.length - 1 - j))).sum) ∧
  (∀ bs : List Byte, be (beValue bs) bs.length = bs)

/-- Words written out by hand from the encodings of 30_encoding.md and 10_state.md decode to what they stand for. -/
def Obligations.HandWordsDecode : Prop :=
  decode (.seg .w1 [0x03, 0x41]) = .ok (.run8 3 0x41) ∧
  decode (.seg .w1 [0xFE, 0x42, 0x43]) = .ok (.lit8 126 [0x42, 0x43]) ∧
  decode (.seg .w2 [0x1C, 0x3D, 0xAB, 0xCD]) = .ok (.run16 7229 0xABCD) ∧
  decode (.hdr [0x02, 0x08, 0x00, 0x00, 0x00, 0x01, 0x38, 0x80]) = .ok (.hdr16Wide 80000) ∧
  decode (.hdr [0x04, 0x00, 0x00, 0x11]) = .ok (.hdr32Short 17) ∧
  decode (.reg ⟨true, 0x00, 4, 0x00001003⟩) = .ok (.start 16 true) ∧
  decode (.reg ⟨true, 0x04, 4, 0x0000000B⟩) = .ok (.config (.inLen 11)) ∧
  decode (.reg ⟨false, 0x08, 4, 0⟩) = .ok (.read .status)

/-! ## The compressed stream as a function -/

/-- R59: the round trip: whatever is compressed with success decodes to the input. -/
def Obligations.RoundTrip : Prop :=
  ∀ (input : List Byte) (uw : Byte) (fw : Bool) (stream header : List Byte), input.length < 2 ^ 32 →
    compressOf input uw fw = .ok (stream, header) → refDecode (header ++ stream) = some input

/-- R70 (1), (2): the segments cover units 0 .. NU-1 exactly once, in order, and every segment's length is one its format can
hold. -/
def Obligations.SegmentsCoverInput : Prop :=
  ∀ (u : Nat → List Byte) (nu : Nat) (w : Width),
    coverFrom 0 (segments u nu w) = some nu ∧
    ∀ seg ∈ segments u nu w, match seg with
      | .run l _ => 2 ≤ l ∧ l ≤ maxRun w ∧ (l = 2 → w = .w1)
      | .lit _ k => 1 ≤ k ∧ k ≤ maxLit w

/-- R70 (3), (4), (5): the units of a run equal its pattern, a run below MAX_RUN is followed by the end or by another unit, and
two literals are adjacent only when the first is full. -/
def Obligations.SegmentsRunsMaximal : Prop :=
  ∀ (u : Nat → List Byte) (nu : Nat) (w : Width),
    (∀ a l p, (a, Segment.run l p) ∈ placed 0 (segments u nu w) →
      (∀ k, k < l → u (a + k) = p) ∧ (l < maxRun w → a + l = nu ∨ u (a + l) ≠ p)) ∧
    (∀ (j a k a' k' : Nat), (segments u nu w)[j]? = some (.lit a k) → (segments u nu w)[j + 1]? = some (.lit a' k') →
      k = maxLit w)

/-- R70 (6) and the place of short runs in (2): no unit of a literal triggered when the scan reached it, and a run of 2 units is
first, or follows a run or a full literal. -/
def Obligations.LiteralUnitsDidNotTrigger : Prop :=
  ∀ (u : Nat → List Byte) (nu : Nat) (w : Width),
    (∀ a st k, (a, Segment.lit st k) ∈ placed 0 (segments u nu w) → ∀ i, a ≤ i → i < a + k →
      let T := if w = .w1 ∧ i = a then 2 else 3
      ¬ (i + T ≤ nu ∧ ∀ j, 1 ≤ j → j < T → u (i + j) = u i)) ∧
    (∀ (j : Nat) (p : List Byte), (segments u nu w)[j]? = some (.run 2 p) →
      j = 0 ∨ (∃ l q, (segments u nu w)[j - 1]? = some (.run l q)) ∨
        ∃ st, (segments u nu w)[j - 1]? = some (.lit st (maxLit w)))

/-- R78: a non-empty input whose segments are all literals never fits, at any width. -/
def Obligations.AllLiteralInputExpands : Prop :=
  ∀ (input : List Byte) (w : Width), input ≠ [] →
    (∀ seg ∈ segments (unitOf (paddedInput input) w) (unitCount input.length w) w, ∃ st k, seg = .lit st k) →
    input.length < (rawStream input w).length

/-- R9: at W = 4 neither clamp can be reached, since NU is at most 2^30; at W = 1 and W = 2 both can. -/
def Obligations.WideClampsUnreachable : Prop :=
  (∀ len : Nat, len < 2 ^ 32 →
    unitCount len .w4 ≤ 2 ^ 30 ∧ unitCount len .w4 < maxLit .w4 ∧ unitCount len .w4 < maxRun .w4) ∧
  ∀ w : Width, w ≠ .w4 → ∃ len, len < 2 ^ 32 ∧ maxLit w ≤ unitCount len w ∧ maxRun w ≤ unitCount len w

/-! ## The parameter MAX_INPUT_BYTES -/

/-- I4, R8: the platform's cap MAX_INPUT_BYTES. No step changes it; a START that would begin a compression of more bytes is
refused as a move of the host (the point of the refusal is the model's, log entry 13); one of at most that many runs. -/
def Obligations.StartAboveCapRefused : Prop :=
  (∀ s t : State, step s = .next t → t.inputCap = s.inputCap) ∧
  ∀ (s : State) (a : Access) (q : List HostMove) (uw : Byte) (fw : Bool), s.slot = none → s.hostq = .access a :: q →
    decodeAccess a = .ok (.start uw fw) → s.busy = false → (uw = 8 ∨ uw = 16 ∨ uw = 32) →
    (s.inputCap < s.inLen.toNat → step s = .refused .lengthAboveCap) ∧
    (s.inLen.toNat ≤ s.inputCap → ∃ t, step s = .next t ∧ t.phase = .scan ∧ t.llen = s.inLen.toNat)

/-! ## OUT over a START -/

/-- R31, R36, I6: OUT over a START on a legal width. A byte at OUT_CNT or above, or with a known value the host has stored since
the last START, is as before; after a success every other byte below OUT_CNT, which the compression before wrote, is a fresh
free value (log entry 5). -/
def Obligations.StartAndOut : Prop :=
  ∀ (s t : State) (uw : Byte) (fw : Bool) (w : Width), s.busy = false → uw.toNat = 8 * widthBytes w →
    exec (.start uw fw) s = .next t → ∀ a,
    (s.outCnt ≤ a ∨ s.hostOut.read? a ≠ none ∧ s.outMem.read? a ≠ none →
      t.outMem.read? a = s.outMem.read? a ∧ outByte t a = outByte s a) ∧
    (s.err = 0 → a < s.outCnt → s.hostOut.read? a = none →
      t.outMem.read? a = none ∧ outByte t a = Config.outByte s.draws a)
end

