-- ==== Sys2Proof/Laws/Memory.lean ====
section
/-! SUPPORT. The laws of the byte spaces: a read after a write, and that every operation keeps the canonical form. -/

namespace Sys2Proof.Machine

@[simp] theorem Memory.read?_nil (c : Nat) : Memory.read? [] c = none := rfl

theorem Memory.read?_cons (x c : Nat) (v : Byte) (m : Memory) :
    Memory.read? ((x, v) :: m) c = if c = x then some v else Memory.read? m c := rfl

/-- A read after a write: the byte written at its place, the old byte everywhere else. -/
theorem Memory.read?_write (m : Memory) (a c : Nat) (b : Byte) :
    (m.write a b).read? c = if c = a then some b else m.read? c := by
  induction m with
  | nil => simp [Memory.write, Memory.read?_cons]
  | cons e m ih =>
    obtain ⟨x, v⟩ := e
    unfold Memory.write
    by_cases hlt : a < x
    · simp [hlt, Memory.read?_cons]
    · by_cases heq : a = x
      · simp [heq, Memory.read?_cons]
        split <;> rfl
      · simp only [hlt, heq, if_false, Memory.read?_cons, ih]
        by_cases hc : c = x
        · have : c ≠ a := by omega
          simp [hc, Ne.symm heq]
        · simp [hc]

@[simp] theorem Memory.read?_write_same (m : Memory) (a : Nat) (b : Byte) :
    (m.write a b).read? a = some b := by simp [Memory.read?_write]

theorem Memory.read?_write_other (m : Memory) {a c : Nat} (b : Byte) (h : c ≠ a) :
    (m.write a b).read? c = m.read? c := by simp [Memory.read?_write, h]

@[simp] theorem Memory.writeBytes_nil (m : Memory) (a : Nat) : m.writeBytes a [] = m := rfl

theorem Memory.writeBytes_cons (m : Memory) (a : Nat) (b : Byte) (s : List Byte) :
    m.writeBytes a (b :: s) = (m.write a b).writeBytes (a + 1) s := rfl

/-- A read after writing a sequence: its bytes inside, the old byte outside. -/
theorem Memory.read?_writeBytes (m : Memory) (a c : Nat) (s : List Byte) :
    (m.writeBytes a s).read? c = if a ≤ c ∧ c < a + s.length then s[c - a]? else m.read? c := by
  induction s generalizing m a with
  | nil => simp
  | cons b s ih =>
    rw [Memory.writeBytes_cons, ih, Memory.read?_write]
    by_cases hc : c = a
    · subst hc; simp
    · by_cases hin : a + 1 ≤ c ∧ c < a + 1 + s.length
      · have h1 : a ≤ c ∧ c < a + (b :: s).length := by simp only [List.length_cons]; omega
        have h2 : c - a = (c - (a + 1)) + 1 := by omega
        rw [if_pos hin, if_pos h1, h2, List.getElem?_cons_succ]
      · have h1 : ¬ (a ≤ c ∧ c < a + (b :: s).length) := by simp only [List.length_cons]; omega
        rw [if_neg hin, if_neg h1, if_neg hc]

theorem Memory.read?_writeBytes_inside (m : Memory) {a j : Nat} {s : List Byte} (h : j < s.length) :
    (m.writeBytes a s).read? (a + j) = some s[j] := by
  rw [Memory.read?_writeBytes, if_pos (by omega)]
  simp [h]

theorem Memory.read?_writeBytes_outside (m : Memory) {a c : Nat} {s : List Byte}
    (h : c < a ∨ a + s.length ≤ c) : (m.writeBytes a s).read? c = m.read? c := by
  rw [Memory.read?_writeBytes, if_neg (by omega)]

/-! ## The canonical form -/

theorem Memory.risingFrom_mono {lo lo' : Nat} (m : Memory) (hlo : lo ≤ lo')
    (h : m.risingFrom lo' = true) : m.risingFrom lo = true := by
  cases m with
  | nil => rfl
  | cons e m =>
    obtain ⟨x, v⟩ := e
    simp only [Memory.risingFrom, Bool.and_eq_true, decide_eq_true_eq] at h ⊢
    exact ⟨by omega, h.2⟩

theorem Memory.risingFrom_write {lo a : Nat} (m : Memory) (b : Byte) (hlo : lo ≤ a)
    (h : m.risingFrom lo = true) : (m.write a b).risingFrom lo = true := by
  induction m generalizing lo with
  | nil => simp [Memory.write, Memory.risingFrom, hlo]
  | cons e m ih =>
    obtain ⟨x, v⟩ := e
    simp only [Memory.risingFrom, Bool.and_eq_true, decide_eq_true_eq] at h
    unfold Memory.write
    split
    · simp only [Memory.risingFrom, Bool.and_eq_true, decide_eq_true_eq]
      exact ⟨hlo, by omega, h.2⟩
    · split
      · rename_i heq
        simp only [Memory.risingFrom, Bool.and_eq_true, decide_eq_true_eq]
        exact ⟨hlo, by rw [heq]; exact h.2⟩
      · simp only [Memory.risingFrom, Bool.and_eq_true, decide_eq_true_eq]
        exact ⟨h.1, ih (by omega) h.2⟩

/-- Every write keeps the canonical form. -/
theorem Memory.wf_write (m : Memory) (a : Nat) (b : Byte) (h : m.wf = true) : (m.write a b).wf = true :=
  Memory.risingFrom_write m b (Nat.zero_le a) h

/-- Writing a sequence keeps the canonical form. -/
theorem Memory.wf_writeBytes (m : Memory) (a : Nat) (s : List Byte) (h : m.wf = true) :
    (m.writeBytes a s).wf = true := by
  induction s generalizing m a with
  | nil => exact h
  | cons b s ih => exact ih _ _ (Memory.wf_write m a b h)

theorem Memory.keep_cons (x : Nat) (b : Byte) (m : Memory) (p : Nat → Bool) :
    Memory.keep ((x, b) :: m) p = if p x = true then (x, b) :: m.keep p else m.keep p := by
  simp [Memory.keep, List.filter_cons]

/-- Keeping some offsets leaves their bytes and forgets the others. -/
theorem Memory.read?_keep (m : Memory) (p : Nat → Bool) (c : Nat) :
    (m.keep p).read? c = if p c = true then m.read? c else none := by
  induction m with
  | nil => simp [Memory.keep]
  | cons x rest ih =>
    obtain ⟨a, b⟩ := x
    rw [Memory.keep_cons]
    split <;> rename_i hp <;> simp only [Memory.read?_cons, ih] <;> by_cases hc : c = a <;> simp [hc, hp]

theorem Memory.risingFrom_keep {lo : Nat} (m : Memory) (p : Nat → Bool)
    (h : m.risingFrom lo = true) : (m.keep p).risingFrom lo = true := by
  induction m generalizing lo with
  | nil => rfl
  | cons x rest ih =>
    obtain ⟨a, b⟩ := x
    simp only [Memory.risingFrom, Bool.and_eq_true, decide_eq_true_eq] at h
    rw [Memory.keep_cons]
    split
    · simp only [Memory.risingFrom, Bool.and_eq_true, decide_eq_true_eq]
      exact ⟨h.1, ih h.2⟩
    · exact ih (Memory.risingFrom_mono rest (by omega) h.2)

theorem Memory.wf_keep (m : Memory) (p : Nat → Bool) (h : m.wf = true) : (m.keep p).wf = true :=
  Memory.risingFrom_keep m p h

/-! ## The draws of OUT's bytes of no known value -/

/-- A prefix added stands for its draw inside, and changes nothing outside. -/
theorem drawAt_pushStale (base n d : Nat) (stale : List (Nat × Nat)) (a : Nat) :
    drawAt base (pushStale n d stale) a = if a < n then d else drawAt base stale a := by
  have hf : ∀ l : List (Nat × Nat), n ≤ a → drawAt base (l.filter fun e => decide (n < e.1)) a = drawAt base l a := by
    intro l ha
    induction l with
    | nil => rfl
    | cons x rest ih =>
      obtain ⟨k, e⟩ := x
      by_cases hk : n < k
      · rw [List.filter_cons_of_pos (by simpa using hk)]; simp only [drawAt, ih]
      · rw [List.filter_cons_of_neg (by simpa using hk), ih]; simp only [drawAt]; rw [if_neg (by omega)]
  unfold pushStale
  split
  · rename_i h; subst h; rw [if_neg (by omega)]
  · simp only [drawAt]
    split
    · rfl
    · exact hf stale (by omega)

/-- What a START leaves of OUT: a byte at OUT_CNT or above, or one the host has stored since the last START, is as it was. -/
theorem outByte_staleOut_keep {s : State} {a : Nat}
    (h : s.outCnt ≤ a ∨ (s.hostOut.read? a).isSome = true ∧ (s.outMem.read? a).isSome = true) :
    outByte (staleOut s) a = outByte s a := by
  have hk : (s.outMem.keep fun a => decide (s.outCnt ≤ a) || (s.hostOut.read? a).isSome).read? a = s.outMem.read? a := by
    rw [Memory.read?_keep, if_pos]
    rcases h with h | h <;> simp [h]
  simp only [outByte, staleOut, hk]
  rcases h with h | ⟨_, h⟩
  · congr 2
    split
    · rw [drawAt_pushStale, if_neg (by omega)]
    · rfl
  · obtain ⟨b, hb⟩ := Option.isSome_iff_exists.1 h
    simp [hb]

/-- What a START forgets of OUT after a success: a byte the core wrote and the host has not stored to since. -/
theorem outByte_staleOut_forget {s : State} {a : Nat} (he : s.err = 0) (h : a < s.outCnt)
    (hh : s.hostOut.read? a = none) :
    (staleOut s).outMem.read? a = none ∧ outByte (staleOut s) a = Config.outByte s.draws a := by
  have hk : (s.outMem.keep fun a => decide (s.outCnt ≤ a) || (s.hostOut.read? a).isSome).read? a = none := by
    rw [Memory.read?_keep, if_neg]
    simp [hh]; omega
  refine ⟨hk, ?_⟩
  simp only [outByte, staleOut, hk, he, if_true, drawAt_pushStale, if_pos h, Option.getD_none]

@[simp] theorem Memory.wf_nil : Memory.wf [] = true := rfl

theorem State.reset_memories_wf :
    State.reset.inMem.wf = true ∧ State.reset.outMem.wf = true ∧ State.reset.hostOut.wf = true := ⟨rfl, rfl, rfl⟩

end Sys2Proof.Machine
end

