-- ==== Sys2Proof/Laws/State.lean ====
section
/-! SUPPORT. One lemma per field per update of the state, each true by rfl, so that no proof unfolds a record update. -/

namespace Sys2Proof.Machine

variable (s : State) (seg : Segment) (b d : Bool) (e : BitVec 4) (k : ErrKind) (len w0 w1 : Word) (ty : BitVec 2)
variable (z16 : BitVec 16) (z32 : BitVec 32) (uw : Byte) (fwd : Bool) (w : Width)
variable (total l : Nat) (bytes : List Byte) (q : List HostMove)

/-! ## clearResults -/

@[simp] theorem clearResults_forceWide : (clearResults s).forceWide = s.forceWide := rfl
@[simp] theorem clearResults_unitWidth : (clearResults s).unitWidth = s.unitWidth := rfl
@[simp] theorem clearResults_inLen : (clearResults s).inLen = s.inLen := rfl
@[simp] theorem clearResults_busy : (clearResults s).busy = s.busy := rfl
@[simp] theorem clearResults_done : (clearResults s).done = s.done := rfl
@[simp] theorem clearResults_err : (clearResults s).err = s.err := rfl
@[simp] theorem clearResults_outLen : (clearResults s).outLen = 0 := rfl
@[simp] theorem clearResults_hdrLen : (clearResults s).hdrLen = 0 := rfl
@[simp] theorem clearResults_hdrW0 : (clearResults s).hdrW0 = 0 := rfl
@[simp] theorem clearResults_hdrW1 : (clearResults s).hdrW1 = 0 := rfl
@[simp] theorem clearResults_phase : (clearResults s).phase = s.phase := rfl
@[simp] theorem clearResults_wb : (clearResults s).wb = s.wb := rfl
@[simp] theorem clearResults_fw : (clearResults s).fw = s.fw := rfl
@[simp] theorem clearResults_llen : (clearResults s).llen = s.llen := rfl
@[simp] theorem clearResults_nu : (clearResults s).nu = s.nu := rfl
@[simp] theorem clearResults_pos : (clearResults s).pos = s.pos := rfl
@[simp] theorem clearResults_litStart : (clearResults s).litStart = s.litStart := rfl
@[simp] theorem clearResults_litCnt : (clearResults s).litCnt = s.litCnt := rfl
@[simp] theorem clearResults_outCnt : (clearResults s).outCnt = s.outCnt := rfl
@[simp] theorem clearResults_trace : (clearResults s).trace = s.trace := rfl
@[simp] theorem clearResults_inMem : (clearResults s).inMem = s.inMem := rfl
@[simp] theorem clearResults_outMem : (clearResults s).outMem = s.outMem := rfl
@[simp] theorem clearResults_hostOut : (clearResults s).hostOut = s.hostOut := rfl
@[simp] theorem clearResults_inputCap : (clearResults s).inputCap = s.inputCap := rfl
@[simp] theorem clearResults_doneSeen : (clearResults s).doneSeen = s.doneSeen := rfl
@[simp] theorem clearResults_outDraw : (clearResults s).outDraw = s.outDraw := rfl
@[simp] theorem clearResults_outStale : (clearResults s).outStale = s.outStale := rfl
@[simp] theorem clearResults_draws : (clearResults s).draws = s.draws := rfl
@[simp] theorem clearResults_rdata : (clearResults s).rdata = s.rdata := rfl
@[simp] theorem clearResults_rdOut : (clearResults s).rdOut = s.rdOut := rfl
@[simp] theorem clearResults_hostq : (clearResults s).hostq = s.hostq := rfl
@[simp] theorem clearResults_slot : (clearResults s).slot = s.slot := rfl

/-! ## forgetOut -/

@[simp] theorem forgetOut_forceWide : (forgetOut s).forceWide = s.forceWide := rfl
@[simp] theorem forgetOut_unitWidth : (forgetOut s).unitWidth = s.unitWidth := rfl
@[simp] theorem forgetOut_inLen : (forgetOut s).inLen = s.inLen := rfl
@[simp] theorem forgetOut_busy : (forgetOut s).busy = s.busy := rfl
@[simp] theorem forgetOut_done : (forgetOut s).done = s.done := rfl
@[simp] theorem forgetOut_err : (forgetOut s).err = s.err := rfl
@[simp] theorem forgetOut_outLen : (forgetOut s).outLen = s.outLen := rfl
@[simp] theorem forgetOut_hdrLen : (forgetOut s).hdrLen = s.hdrLen := rfl
@[simp] theorem forgetOut_hdrW0 : (forgetOut s).hdrW0 = s.hdrW0 := rfl
@[simp] theorem forgetOut_hdrW1 : (forgetOut s).hdrW1 = s.hdrW1 := rfl
@[simp] theorem forgetOut_phase : (forgetOut s).phase = s.phase := rfl
@[simp] theorem forgetOut_wb : (forgetOut s).wb = s.wb := rfl
@[simp] theorem forgetOut_fw : (forgetOut s).fw = s.fw := rfl
@[simp] theorem forgetOut_llen : (forgetOut s).llen = s.llen := rfl
@[simp] theorem forgetOut_nu : (forgetOut s).nu = s.nu := rfl
@[simp] theorem forgetOut_pos : (forgetOut s).pos = s.pos := rfl
@[simp] theorem forgetOut_litStart : (forgetOut s).litStart = s.litStart := rfl
@[simp] theorem forgetOut_litCnt : (forgetOut s).litCnt = s.litCnt := rfl
@[simp] theorem forgetOut_outCnt : (forgetOut s).outCnt = s.outCnt := rfl
@[simp] theorem forgetOut_trace : (forgetOut s).trace = s.trace := rfl
@[simp] theorem forgetOut_inMem : (forgetOut s).inMem = s.inMem := rfl
@[simp] theorem forgetOut_outMem : (forgetOut s).outMem = [] := rfl
@[simp] theorem forgetOut_hostOut : (forgetOut s).hostOut = [] := rfl
@[simp] theorem forgetOut_inputCap : (forgetOut s).inputCap = s.inputCap := rfl
@[simp] theorem forgetOut_doneSeen : (forgetOut s).doneSeen = s.doneSeen := rfl
@[simp] theorem forgetOut_outDraw : (forgetOut s).outDraw = s.draws := rfl
@[simp] theorem forgetOut_outStale : (forgetOut s).outStale = [] := rfl
@[simp] theorem forgetOut_draws : (forgetOut s).draws = s.draws + 1 := rfl
@[simp] theorem forgetOut_rdata : (forgetOut s).rdata = s.rdata := rfl
@[simp] theorem forgetOut_rdOut : (forgetOut s).rdOut = s.rdOut := rfl
@[simp] theorem forgetOut_hostq : (forgetOut s).hostq = s.hostq := rfl
@[simp] theorem forgetOut_slot : (forgetOut s).slot = s.slot := rfl

/-! ## staleOut -/

@[simp] theorem staleOut_forceWide : (staleOut s).forceWide = s.forceWide := rfl
@[simp] theorem staleOut_unitWidth : (staleOut s).unitWidth = s.unitWidth := rfl
@[simp] theorem staleOut_inLen : (staleOut s).inLen = s.inLen := rfl
@[simp] theorem staleOut_busy : (staleOut s).busy = s.busy := rfl
@[simp] theorem staleOut_done : (staleOut s).done = s.done := rfl
@[simp] theorem staleOut_err : (staleOut s).err = s.err := rfl
@[simp] theorem staleOut_outLen : (staleOut s).outLen = s.outLen := rfl
@[simp] theorem staleOut_hdrLen : (staleOut s).hdrLen = s.hdrLen := rfl
@[simp] theorem staleOut_hdrW0 : (staleOut s).hdrW0 = s.hdrW0 := rfl
@[simp] theorem staleOut_hdrW1 : (staleOut s).hdrW1 = s.hdrW1 := rfl
@[simp] theorem staleOut_phase : (staleOut s).phase = s.phase := rfl
@[simp] theorem staleOut_wb : (staleOut s).wb = s.wb := rfl
@[simp] theorem staleOut_fw : (staleOut s).fw = s.fw := rfl
@[simp] theorem staleOut_llen : (staleOut s).llen = s.llen := rfl
@[simp] theorem staleOut_nu : (staleOut s).nu = s.nu := rfl
@[simp] theorem staleOut_pos : (staleOut s).pos = s.pos := rfl
@[simp] theorem staleOut_litStart : (staleOut s).litStart = s.litStart := rfl
@[simp] theorem staleOut_litCnt : (staleOut s).litCnt = s.litCnt := rfl
@[simp] theorem staleOut_outCnt : (staleOut s).outCnt = s.outCnt := rfl
@[simp] theorem staleOut_trace : (staleOut s).trace = s.trace := rfl
@[simp] theorem staleOut_inMem : (staleOut s).inMem = s.inMem := rfl
@[simp] theorem staleOut_outMem : (staleOut s).outMem = s.outMem.keep fun a => decide (s.outCnt ≤ a) || (s.hostOut.read? a).isSome := rfl
@[simp] theorem staleOut_hostOut : (staleOut s).hostOut = [] := rfl
@[simp] theorem staleOut_inputCap : (staleOut s).inputCap = s.inputCap := rfl
@[simp] theorem staleOut_doneSeen : (staleOut s).doneSeen = s.doneSeen := rfl
@[simp] theorem staleOut_outDraw : (staleOut s).outDraw = s.outDraw := rfl
@[simp] theorem staleOut_outStale : (staleOut s).outStale = if s.err = 0 then pushStale s.outCnt s.draws s.outStale else s.outStale := rfl
@[simp] theorem staleOut_draws : (staleOut s).draws = s.draws + 1 := rfl
@[simp] theorem staleOut_rdata : (staleOut s).rdata = s.rdata := rfl
@[simp] theorem staleOut_rdOut : (staleOut s).rdOut = s.rdOut := rfl
@[simp] theorem staleOut_hostq : (staleOut s).hostq = s.hostq := rfl
@[simp] theorem staleOut_slot : (staleOut s).slot = s.slot := rfl

/-! ## record -/

@[simp] theorem record_forceWide : (record seg s).forceWide = s.forceWide := rfl
@[simp] theorem record_unitWidth : (record seg s).unitWidth = s.unitWidth := rfl
@[simp] theorem record_inLen : (record seg s).inLen = s.inLen := rfl
@[simp] theorem record_busy : (record seg s).busy = s.busy := rfl
@[simp] theorem record_done : (record seg s).done = s.done := rfl
@[simp] theorem record_err : (record seg s).err = s.err := rfl
@[simp] theorem record_outLen : (record seg s).outLen = s.outLen := rfl
@[simp] theorem record_hdrLen : (record seg s).hdrLen = s.hdrLen := rfl
@[simp] theorem record_hdrW0 : (record seg s).hdrW0 = s.hdrW0 := rfl
@[simp] theorem record_hdrW1 : (record seg s).hdrW1 = s.hdrW1 := rfl
@[simp] theorem record_phase : (record seg s).phase = s.phase := rfl
@[simp] theorem record_wb : (record seg s).wb = s.wb := rfl
@[simp] theorem record_fw : (record seg s).fw = s.fw := rfl
@[simp] theorem record_llen : (record seg s).llen = s.llen := rfl
@[simp] theorem record_nu : (record seg s).nu = s.nu := rfl
@[simp] theorem record_pos : (record seg s).pos = s.pos := rfl
@[simp] theorem record_litStart : (record seg s).litStart = s.litStart := rfl
@[simp] theorem record_litCnt : (record seg s).litCnt = s.litCnt := rfl
@[simp] theorem record_outCnt : (record seg s).outCnt = s.outCnt := rfl
@[simp] theorem record_trace : (record seg s).trace = s.trace ++ [seg] := rfl
@[simp] theorem record_inMem : (record seg s).inMem = s.inMem := rfl
@[simp] theorem record_outMem : (record seg s).outMem = s.outMem := rfl
@[simp] theorem record_hostOut : (record seg s).hostOut = s.hostOut := rfl
@[simp] theorem record_inputCap : (record seg s).inputCap = s.inputCap := rfl
@[simp] theorem record_doneSeen : (record seg s).doneSeen = s.doneSeen := rfl
@[simp] theorem record_outDraw : (record seg s).outDraw = s.outDraw := rfl
@[simp] theorem record_outStale : (record seg s).outStale = s.outStale := rfl
@[simp] theorem record_draws : (record seg s).draws = s.draws := rfl
@[simp] theorem record_rdata : (record seg s).rdata = s.rdata := rfl
@[simp] theorem record_rdOut : (record seg s).rdOut = s.rdOut := rfl
@[simp] theorem record_hostq : (record seg s).hostq = s.hostq := rfl
@[simp] theorem record_slot : (record seg s).slot = s.slot := rfl

/-! ## setStatus -/

@[simp] theorem setStatus_forceWide : (setStatus b d e s).forceWide = s.forceWide := rfl
@[simp] theorem setStatus_unitWidth : (setStatus b d e s).unitWidth = s.unitWidth := rfl
@[simp] theorem setStatus_inLen : (setStatus b d e s).inLen = s.inLen := rfl
@[simp] theorem setStatus_busy : (setStatus b d e s).busy = b := rfl
@[simp] theorem setStatus_done : (setStatus b d e s).done = d := rfl
@[simp] theorem setStatus_err : (setStatus b d e s).err = e := rfl
@[simp] theorem setStatus_outLen : (setStatus b d e s).outLen = s.outLen := rfl
@[simp] theorem setStatus_hdrLen : (setStatus b d e s).hdrLen = s.hdrLen := rfl
@[simp] theorem setStatus_hdrW0 : (setStatus b d e s).hdrW0 = s.hdrW0 := rfl
@[simp] theorem setStatus_hdrW1 : (setStatus b d e s).hdrW1 = s.hdrW1 := rfl
@[simp] theorem setStatus_phase : (setStatus b d e s).phase = s.phase := rfl
@[simp] theorem setStatus_wb : (setStatus b d e s).wb = s.wb := rfl
@[simp] theorem setStatus_fw : (setStatus b d e s).fw = s.fw := rfl
@[simp] theorem setStatus_llen : (setStatus b d e s).llen = s.llen := rfl
@[simp] theorem setStatus_nu : (setStatus b d e s).nu = s.nu := rfl
@[simp] theorem setStatus_pos : (setStatus b d e s).pos = s.pos := rfl
@[simp] theorem setStatus_litStart : (setStatus b d e s).litStart = s.litStart := rfl
@[simp] theorem setStatus_litCnt : (setStatus b d e s).litCnt = s.litCnt := rfl
@[simp] theorem setStatus_outCnt : (setStatus b d e s).outCnt = s.outCnt := rfl
@[simp] theorem setStatus_trace : (setStatus b d e s).trace = s.trace := rfl
@[simp] theorem setStatus_inMem : (setStatus b d e s).inMem = s.inMem := rfl
@[simp] theorem setStatus_outMem : (setStatus b d e s).outMem = s.outMem := rfl
@[simp] theorem setStatus_hostOut : (setStatus b d e s).hostOut = s.hostOut := rfl
@[simp] theorem setStatus_inputCap : (setStatus b d e s).inputCap = s.inputCap := rfl
@[simp] theorem setStatus_doneSeen : (setStatus b d e s).doneSeen = s.doneSeen := rfl
@[simp] theorem setStatus_outDraw : (setStatus b d e s).outDraw = s.outDraw := rfl
@[simp] theorem setStatus_outStale : (setStatus b d e s).outStale = s.outStale := rfl
@[simp] theorem setStatus_draws : (setStatus b d e s).draws = s.draws := rfl
@[simp] theorem setStatus_rdata : (setStatus b d e s).rdata = s.rdata := rfl
@[simp] theorem setStatus_rdOut : (setStatus b d e s).rdOut = s.rdOut := rfl
@[simp] theorem setStatus_hostq : (setStatus b d e s).hostq = s.hostq := rfl
@[simp] theorem setStatus_slot : (setStatus b d e s).slot = s.slot := rfl

/-! ## abort -/

@[simp] theorem abort_forceWide : (abort k s).forceWide = s.forceWide := rfl
@[simp] theorem abort_unitWidth : (abort k s).unitWidth = s.unitWidth := rfl
@[simp] theorem abort_inLen : (abort k s).inLen = s.inLen := rfl
@[simp] theorem abort_busy : (abort k s).busy = false := rfl
@[simp] theorem abort_done : (abort k s).done = true := rfl
@[simp] theorem abort_err : (abort k s).err = errCode k := rfl
@[simp] theorem abort_outLen : (abort k s).outLen = 0 := rfl
@[simp] theorem abort_hdrLen : (abort k s).hdrLen = 0 := rfl
@[simp] theorem abort_hdrW0 : (abort k s).hdrW0 = 0 := rfl
@[simp] theorem abort_hdrW1 : (abort k s).hdrW1 = 0 := rfl
@[simp] theorem abort_phase : (abort k s).phase = .idle := rfl
@[simp] theorem abort_wb : (abort k s).wb = s.wb := rfl
@[simp] theorem abort_fw : (abort k s).fw = s.fw := rfl
@[simp] theorem abort_llen : (abort k s).llen = s.llen := rfl
@[simp] theorem abort_nu : (abort k s).nu = s.nu := rfl
@[simp] theorem abort_pos : (abort k s).pos = s.pos := rfl
@[simp] theorem abort_litStart : (abort k s).litStart = s.litStart := rfl
@[simp] theorem abort_litCnt : (abort k s).litCnt = s.litCnt := rfl
@[simp] theorem abort_outCnt : (abort k s).outCnt = s.outCnt := rfl
@[simp] theorem abort_trace : (abort k s).trace = s.trace := rfl
@[simp] theorem abort_inMem : (abort k s).inMem = s.inMem := rfl
@[simp] theorem abort_outMem : (abort k s).outMem = [] := rfl
@[simp] theorem abort_hostOut : (abort k s).hostOut = [] := rfl
@[simp] theorem abort_inputCap : (abort k s).inputCap = s.inputCap := rfl
@[simp] theorem abort_doneSeen : (abort k s).doneSeen = s.doneSeen := rfl
@[simp] theorem abort_outDraw : (abort k s).outDraw = s.draws := rfl
@[simp] theorem abort_outStale : (abort k s).outStale = [] := rfl
@[simp] theorem abort_draws : (abort k s).draws = s.draws + 1 := rfl
@[simp] theorem abort_rdata : (abort k s).rdata = s.rdata := rfl
@[simp] theorem abort_rdOut : (abort k s).rdOut = s.rdOut := rfl
@[simp] theorem abort_hostq : (abort k s).hostq = s.hostq := rfl
@[simp] theorem abort_slot : (abort k s).slot = s.slot := rfl

/-! ## appendOut -/

@[simp] theorem appendOut_forceWide : (appendOut total bytes s).forceWide = s.forceWide := rfl
@[simp] theorem appendOut_unitWidth : (appendOut total bytes s).unitWidth = s.unitWidth := rfl
@[simp] theorem appendOut_inLen : (appendOut total bytes s).inLen = s.inLen := rfl
@[simp] theorem appendOut_busy : (appendOut total bytes s).busy = s.busy := rfl
@[simp] theorem appendOut_done : (appendOut total bytes s).done = s.done := rfl
@[simp] theorem appendOut_err : (appendOut total bytes s).err = s.err := rfl
@[simp] theorem appendOut_outLen : (appendOut total bytes s).outLen = s.outLen := rfl
@[simp] theorem appendOut_hdrLen : (appendOut total bytes s).hdrLen = s.hdrLen := rfl
@[simp] theorem appendOut_hdrW0 : (appendOut total bytes s).hdrW0 = s.hdrW0 := rfl
@[simp] theorem appendOut_hdrW1 : (appendOut total bytes s).hdrW1 = s.hdrW1 := rfl
@[simp] theorem appendOut_phase : (appendOut total bytes s).phase = s.phase := rfl
@[simp] theorem appendOut_wb : (appendOut total bytes s).wb = s.wb := rfl
@[simp] theorem appendOut_fw : (appendOut total bytes s).fw = s.fw := rfl
@[simp] theorem appendOut_llen : (appendOut total bytes s).llen = s.llen := rfl
@[simp] theorem appendOut_nu : (appendOut total bytes s).nu = s.nu := rfl
@[simp] theorem appendOut_pos : (appendOut total bytes s).pos = s.pos := rfl
@[simp] theorem appendOut_litStart : (appendOut total bytes s).litStart = s.litStart := rfl
@[simp] theorem appendOut_litCnt : (appendOut total bytes s).litCnt = s.litCnt := rfl
@[simp] theorem appendOut_outCnt : (appendOut total bytes s).outCnt = total := rfl
@[simp] theorem appendOut_trace : (appendOut total bytes s).trace = s.trace := rfl
@[simp] theorem appendOut_inMem : (appendOut total bytes s).inMem = s.inMem := rfl
@[simp] theorem appendOut_outMem : (appendOut total bytes s).outMem = s.outMem.writeBytes s.outCnt bytes := rfl
@[simp] theorem appendOut_hostOut : (appendOut total bytes s).hostOut = s.hostOut := rfl
@[simp] theorem appendOut_inputCap : (appendOut total bytes s).inputCap = s.inputCap := rfl
@[simp] theorem appendOut_doneSeen : (appendOut total bytes s).doneSeen = s.doneSeen := rfl
@[simp] theorem appendOut_outDraw : (appendOut total bytes s).outDraw = s.outDraw := rfl
@[simp] theorem appendOut_outStale : (appendOut total bytes s).outStale = s.outStale := rfl
@[simp] theorem appendOut_draws : (appendOut total bytes s).draws = s.draws := rfl
@[simp] theorem appendOut_rdata : (appendOut total bytes s).rdata = s.rdata := rfl
@[simp] theorem appendOut_rdOut : (appendOut total bytes s).rdOut = s.rdOut := rfl
@[simp] theorem appendOut_hostq : (appendOut total bytes s).hostq = s.hostq := rfl
@[simp] theorem appendOut_slot : (appendOut total bytes s).slot = s.slot := rfl

/-! ## clearLit -/

@[simp] theorem clearLit_forceWide : (clearLit s).forceWide = s.forceWide := rfl
@[simp] theorem clearLit_unitWidth : (clearLit s).unitWidth = s.unitWidth := rfl
@[simp] theorem clearLit_inLen : (clearLit s).inLen = s.inLen := rfl
@[simp] theorem clearLit_busy : (clearLit s).busy = s.busy := rfl
@[simp] theorem clearLit_done : (clearLit s).done = s.done := rfl
@[simp] theorem clearLit_err : (clearLit s).err = s.err := rfl
@[simp] theorem clearLit_outLen : (clearLit s).outLen = s.outLen := rfl
@[simp] theorem clearLit_hdrLen : (clearLit s).hdrLen = s.hdrLen := rfl
@[simp] theorem clearLit_hdrW0 : (clearLit s).hdrW0 = s.hdrW0 := rfl
@[simp] theorem clearLit_hdrW1 : (clearLit s).hdrW1 = s.hdrW1 := rfl
@[simp] theorem clearLit_phase : (clearLit s).phase = s.phase := rfl
@[simp] theorem clearLit_wb : (clearLit s).wb = s.wb := rfl
@[simp] theorem clearLit_fw : (clearLit s).fw = s.fw := rfl
@[simp] theorem clearLit_llen : (clearLit s).llen = s.llen := rfl
@[simp] theorem clearLit_nu : (clearLit s).nu = s.nu := rfl
@[simp] theorem clearLit_pos : (clearLit s).pos = s.pos := rfl
@[simp] theorem clearLit_litStart : (clearLit s).litStart = s.litStart := rfl
@[simp] theorem clearLit_litCnt : (clearLit s).litCnt = 0 := rfl
@[simp] theorem clearLit_outCnt : (clearLit s).outCnt = s.outCnt := rfl
@[simp] theorem clearLit_trace : (clearLit s).trace = s.trace := rfl
@[simp] theorem clearLit_inMem : (clearLit s).inMem = s.inMem := rfl
@[simp] theorem clearLit_outMem : (clearLit s).outMem = s.outMem := rfl
@[simp] theorem clearLit_hostOut : (clearLit s).hostOut = s.hostOut := rfl
@[simp] theorem clearLit_inputCap : (clearLit s).inputCap = s.inputCap := rfl
@[simp] theorem clearLit_doneSeen : (clearLit s).doneSeen = s.doneSeen := rfl
@[simp] theorem clearLit_outDraw : (clearLit s).outDraw = s.outDraw := rfl
@[simp] theorem clearLit_outStale : (clearLit s).outStale = s.outStale := rfl
@[simp] theorem clearLit_draws : (clearLit s).draws = s.draws := rfl
@[simp] theorem clearLit_rdata : (clearLit s).rdata = s.rdata := rfl
@[simp] theorem clearLit_rdOut : (clearLit s).rdOut = s.rdOut := rfl
@[simp] theorem clearLit_hostq : (clearLit s).hostq = s.hostq := rfl
@[simp] theorem clearLit_slot : (clearLit s).slot = s.slot := rfl

/-! ## advance -/

@[simp] theorem advance_forceWide : (advance l s).forceWide = s.forceWide := rfl
@[simp] theorem advance_unitWidth : (advance l s).unitWidth = s.unitWidth := rfl
@[simp] theorem advance_inLen : (advance l s).inLen = s.inLen := rfl
@[simp] theorem advance_busy : (advance l s).busy = s.busy := rfl
@[simp] theorem advance_done : (advance l s).done = s.done := rfl
@[simp] theorem advance_err : (advance l s).err = s.err := rfl
@[simp] theorem advance_outLen : (advance l s).outLen = s.outLen := rfl
@[simp] theorem advance_hdrLen : (advance l s).hdrLen = s.hdrLen := rfl
@[simp] theorem advance_hdrW0 : (advance l s).hdrW0 = s.hdrW0 := rfl
@[simp] theorem advance_hdrW1 : (advance l s).hdrW1 = s.hdrW1 := rfl
@[simp] theorem advance_phase : (advance l s).phase = s.phase := rfl
@[simp] theorem advance_wb : (advance l s).wb = s.wb := rfl
@[simp] theorem advance_fw : (advance l s).fw = s.fw := rfl
@[simp] theorem advance_llen : (advance l s).llen = s.llen := rfl
@[simp] theorem advance_nu : (advance l s).nu = s.nu := rfl
@[simp] theorem advance_pos : (advance l s).pos = s.pos + l := rfl
@[simp] theorem advance_litStart : (advance l s).litStart = s.litStart := rfl
@[simp] theorem advance_litCnt : (advance l s).litCnt = s.litCnt := rfl
@[simp] theorem advance_outCnt : (advance l s).outCnt = s.outCnt := rfl
@[simp] theorem advance_trace : (advance l s).trace = s.trace := rfl
@[simp] theorem advance_inMem : (advance l s).inMem = s.inMem := rfl
@[simp] theorem advance_outMem : (advance l s).outMem = s.outMem := rfl
@[simp] theorem advance_hostOut : (advance l s).hostOut = s.hostOut := rfl
@[simp] theorem advance_inputCap : (advance l s).inputCap = s.inputCap := rfl
@[simp] theorem advance_doneSeen : (advance l s).doneSeen = s.doneSeen := rfl
@[simp] theorem advance_outDraw : (advance l s).outDraw = s.outDraw := rfl
@[simp] theorem advance_outStale : (advance l s).outStale = s.outStale := rfl
@[simp] theorem advance_draws : (advance l s).draws = s.draws := rfl
@[simp] theorem advance_rdata : (advance l s).rdata = s.rdata := rfl
@[simp] theorem advance_rdOut : (advance l s).rdOut = s.rdOut := rfl
@[simp] theorem advance_hostq : (advance l s).hostq = s.hostq := rfl
@[simp] theorem advance_slot : (advance l s).slot = s.slot := rfl

/-! ## loadHeader -/

@[simp] theorem loadHeader_forceWide : (loadHeader len w0 w1 s).forceWide = s.forceWide := rfl
@[simp] theorem loadHeader_unitWidth : (loadHeader len w0 w1 s).unitWidth = s.unitWidth := rfl
@[simp] theorem loadHeader_inLen : (loadHeader len w0 w1 s).inLen = s.inLen := rfl
@[simp] theorem loadHeader_busy : (loadHeader len w0 w1 s).busy = s.busy := rfl
@[simp] theorem loadHeader_done : (loadHeader len w0 w1 s).done = s.done := rfl
@[simp] theorem loadHeader_err : (loadHeader len w0 w1 s).err = s.err := rfl
@[simp] theorem loadHeader_outLen : (loadHeader len w0 w1 s).outLen = s.outLen := rfl
@[simp] theorem loadHeader_hdrLen : (loadHeader len w0 w1 s).hdrLen = len := rfl
@[simp] theorem loadHeader_hdrW0 : (loadHeader len w0 w1 s).hdrW0 = w0 := rfl
@[simp] theorem loadHeader_hdrW1 : (loadHeader len w0 w1 s).hdrW1 = w1 := rfl
@[simp] theorem loadHeader_phase : (loadHeader len w0 w1 s).phase = s.phase := rfl
@[simp] theorem loadHeader_wb : (loadHeader len w0 w1 s).wb = s.wb := rfl
@[simp] theorem loadHeader_fw : (loadHeader len w0 w1 s).fw = s.fw := rfl
@[simp] theorem loadHeader_llen : (loadHeader len w0 w1 s).llen = s.llen := rfl
@[simp] theorem loadHeader_nu : (loadHeader len w0 w1 s).nu = s.nu := rfl
@[simp] theorem loadHeader_pos : (loadHeader len w0 w1 s).pos = s.pos := rfl
@[simp] theorem loadHeader_litStart : (loadHeader len w0 w1 s).litStart = s.litStart := rfl
@[simp] theorem loadHeader_litCnt : (loadHeader len w0 w1 s).litCnt = s.litCnt := rfl
@[simp] theorem loadHeader_outCnt : (loadHeader len w0 w1 s).outCnt = s.outCnt := rfl
@[simp] theorem loadHeader_trace : (loadHeader len w0 w1 s).trace = s.trace := rfl
@[simp] theorem loadHeader_inMem : (loadHeader len w0 w1 s).inMem = s.inMem := rfl
@[simp] theorem loadHeader_outMem : (loadHeader len w0 w1 s).outMem = s.outMem := rfl
@[simp] theorem loadHeader_hostOut : (loadHeader len w0 w1 s).hostOut = s.hostOut := rfl
@[simp] theorem loadHeader_inputCap : (loadHeader len w0 w1 s).inputCap = s.inputCap := rfl
@[simp] theorem loadHeader_doneSeen : (loadHeader len w0 w1 s).doneSeen = s.doneSeen := rfl
@[simp] theorem loadHeader_outDraw : (loadHeader len w0 w1 s).outDraw = s.outDraw := rfl
@[simp] theorem loadHeader_outStale : (loadHeader len w0 w1 s).outStale = s.outStale := rfl
@[simp] theorem loadHeader_draws : (loadHeader len w0 w1 s).draws = s.draws := rfl
@[simp] theorem loadHeader_rdata : (loadHeader len w0 w1 s).rdata = s.rdata := rfl
@[simp] theorem loadHeader_rdOut : (loadHeader len w0 w1 s).rdOut = s.rdOut := rfl
@[simp] theorem loadHeader_hostq : (loadHeader len w0 w1 s).hostq = s.hostq := rfl
@[simp] theorem loadHeader_slot : (loadHeader len w0 w1 s).slot = s.slot := rfl

/-! ## loadShort -/

@[simp] theorem loadShort_forceWide : (loadShort ty z16 s).forceWide = s.forceWide := rfl
@[simp] theorem loadShort_unitWidth : (loadShort ty z16 s).unitWidth = s.unitWidth := rfl
@[simp] theorem loadShort_inLen : (loadShort ty z16 s).inLen = s.inLen := rfl
@[simp] theorem loadShort_busy : (loadShort ty z16 s).busy = s.busy := rfl
@[simp] theorem loadShort_done : (loadShort ty z16 s).done = s.done := rfl
@[simp] theorem loadShort_err : (loadShort ty z16 s).err = s.err := rfl
@[simp] theorem loadShort_outLen : (loadShort ty z16 s).outLen = s.outLen := rfl
@[simp] theorem loadShort_hdrLen : (loadShort ty z16 s).hdrLen = 4 := rfl
@[simp] theorem loadShort_hdrW0 : (loadShort ty z16 s).hdrW0 = hdrWord0 ty false ++ z16 := rfl
@[simp] theorem loadShort_hdrW1 : (loadShort ty z16 s).hdrW1 = 0 := rfl
@[simp] theorem loadShort_phase : (loadShort ty z16 s).phase = s.phase := rfl
@[simp] theorem loadShort_wb : (loadShort ty z16 s).wb = s.wb := rfl
@[simp] theorem loadShort_fw : (loadShort ty z16 s).fw = s.fw := rfl
@[simp] theorem loadShort_llen : (loadShort ty z16 s).llen = s.llen := rfl
@[simp] theorem loadShort_nu : (loadShort ty z16 s).nu = s.nu := rfl
@[simp] theorem loadShort_pos : (loadShort ty z16 s).pos = s.pos := rfl
@[simp] theorem loadShort_litStart : (loadShort ty z16 s).litStart = s.litStart := rfl
@[simp] theorem loadShort_litCnt : (loadShort ty z16 s).litCnt = s.litCnt := rfl
@[simp] theorem loadShort_outCnt : (loadShort ty z16 s).outCnt = s.outCnt := rfl
@[simp] theorem loadShort_trace : (loadShort ty z16 s).trace = s.trace := rfl
@[simp] theorem loadShort_inMem : (loadShort ty z16 s).inMem = s.inMem := rfl
@[simp] theorem loadShort_outMem : (loadShort ty z16 s).outMem = s.outMem := rfl
@[simp] theorem loadShort_hostOut : (loadShort ty z16 s).hostOut = s.hostOut := rfl
@[simp] theorem loadShort_inputCap : (loadShort ty z16 s).inputCap = s.inputCap := rfl
@[simp] theorem loadShort_doneSeen : (loadShort ty z16 s).doneSeen = s.doneSeen := rfl
@[simp] theorem loadShort_outDraw : (loadShort ty z16 s).outDraw = s.outDraw := rfl
@[simp] theorem loadShort_outStale : (loadShort ty z16 s).outStale = s.outStale := rfl
@[simp] theorem loadShort_draws : (loadShort ty z16 s).draws = s.draws := rfl
@[simp] theorem loadShort_rdata : (loadShort ty z16 s).rdata = s.rdata := rfl
@[simp] theorem loadShort_rdOut : (loadShort ty z16 s).rdOut = s.rdOut := rfl
@[simp] theorem loadShort_hostq : (loadShort ty z16 s).hostq = s.hostq := rfl
@[simp] theorem loadShort_slot : (loadShort ty z16 s).slot = s.slot := rfl

/-! ## loadWide -/

@[simp] theorem loadWide_forceWide : (loadWide ty z32 s).forceWide = s.forceWide := rfl
@[simp] theorem loadWide_unitWidth : (loadWide ty z32 s).unitWidth = s.unitWidth := rfl
@[simp] theorem loadWide_inLen : (loadWide ty z32 s).inLen = s.inLen := rfl
@[simp] theorem loadWide_busy : (loadWide ty z32 s).busy = s.busy := rfl
@[simp] theorem loadWide_done : (loadWide ty z32 s).done = s.done := rfl
@[simp] theorem loadWide_err : (loadWide ty z32 s).err = s.err := rfl
@[simp] theorem loadWide_outLen : (loadWide ty z32 s).outLen = s.outLen := rfl
@[simp] theorem loadWide_hdrLen : (loadWide ty z32 s).hdrLen = 8 := rfl
@[simp] theorem loadWide_hdrW0 : (loadWide ty z32 s).hdrW0 = hdrWord0 ty true ++ (0 : BitVec 16) := rfl
@[simp] theorem loadWide_hdrW1 : (loadWide ty z32 s).hdrW1 = z32 := rfl
@[simp] theorem loadWide_phase : (loadWide ty z32 s).phase = s.phase := rfl
@[simp] theorem loadWide_wb : (loadWide ty z32 s).wb = s.wb := rfl
@[simp] theorem loadWide_fw : (loadWide ty z32 s).fw = s.fw := rfl
@[simp] theorem loadWide_llen : (loadWide ty z32 s).llen = s.llen := rfl
@[simp] theorem loadWide_nu : (loadWide ty z32 s).nu = s.nu := rfl
@[simp] theorem loadWide_pos : (loadWide ty z32 s).pos = s.pos := rfl
@[simp] theorem loadWide_litStart : (loadWide ty z32 s).litStart = s.litStart := rfl
@[simp] theorem loadWide_litCnt : (loadWide ty z32 s).litCnt = s.litCnt := rfl
@[simp] theorem loadWide_outCnt : (loadWide ty z32 s).outCnt = s.outCnt := rfl
@[simp] theorem loadWide_trace : (loadWide ty z32 s).trace = s.trace := rfl
@[simp] theorem loadWide_inMem : (loadWide ty z32 s).inMem = s.inMem := rfl
@[simp] theorem loadWide_outMem : (loadWide ty z32 s).outMem = s.outMem := rfl
@[simp] theorem loadWide_hostOut : (loadWide ty z32 s).hostOut = s.hostOut := rfl
@[simp] theorem loadWide_inputCap : (loadWide ty z32 s).inputCap = s.inputCap := rfl
@[simp] theorem loadWide_doneSeen : (loadWide ty z32 s).doneSeen = s.doneSeen := rfl
@[simp] theorem loadWide_outDraw : (loadWide ty z32 s).outDraw = s.outDraw := rfl
@[simp] theorem loadWide_outStale : (loadWide ty z32 s).outStale = s.outStale := rfl
@[simp] theorem loadWide_draws : (loadWide ty z32 s).draws = s.draws := rfl
@[simp] theorem loadWide_rdata : (loadWide ty z32 s).rdata = s.rdata := rfl
@[simp] theorem loadWide_rdOut : (loadWide ty z32 s).rdOut = s.rdOut := rfl
@[simp] theorem loadWide_hostq : (loadWide ty z32 s).hostq = s.hostq := rfl
@[simp] theorem loadWide_slot : (loadWide ty z32 s).slot = s.slot := rfl

/-! ## storeCtrl -/

@[simp] theorem storeCtrl_forceWide : (storeCtrl uw fwd s).forceWide = fwd := rfl
@[simp] theorem storeCtrl_unitWidth : (storeCtrl uw fwd s).unitWidth = uw := rfl
@[simp] theorem storeCtrl_inLen : (storeCtrl uw fwd s).inLen = s.inLen := rfl
@[simp] theorem storeCtrl_busy : (storeCtrl uw fwd s).busy = s.busy := rfl
@[simp] theorem storeCtrl_done : (storeCtrl uw fwd s).done = s.done := rfl
@[simp] theorem storeCtrl_err : (storeCtrl uw fwd s).err = s.err := rfl
@[simp] theorem storeCtrl_outLen : (storeCtrl uw fwd s).outLen = s.outLen := rfl
@[simp] theorem storeCtrl_hdrLen : (storeCtrl uw fwd s).hdrLen = s.hdrLen := rfl
@[simp] theorem storeCtrl_hdrW0 : (storeCtrl uw fwd s).hdrW0 = s.hdrW0 := rfl
@[simp] theorem storeCtrl_hdrW1 : (storeCtrl uw fwd s).hdrW1 = s.hdrW1 := rfl
@[simp] theorem storeCtrl_phase : (storeCtrl uw fwd s).phase = s.phase := rfl
@[simp] theorem storeCtrl_wb : (storeCtrl uw fwd s).wb = s.wb := rfl
@[simp] theorem storeCtrl_fw : (storeCtrl uw fwd s).fw = s.fw := rfl
@[simp] theorem storeCtrl_llen : (storeCtrl uw fwd s).llen = s.llen := rfl
@[simp] theorem storeCtrl_nu : (storeCtrl uw fwd s).nu = s.nu := rfl
@[simp] theorem storeCtrl_pos : (storeCtrl uw fwd s).pos = s.pos := rfl
@[simp] theorem storeCtrl_litStart : (storeCtrl uw fwd s).litStart = s.litStart := rfl
@[simp] theorem storeCtrl_litCnt : (storeCtrl uw fwd s).litCnt = s.litCnt := rfl
@[simp] theorem storeCtrl_outCnt : (storeCtrl uw fwd s).outCnt = s.outCnt := rfl
@[simp] theorem storeCtrl_trace : (storeCtrl uw fwd s).trace = s.trace := rfl
@[simp] theorem storeCtrl_inMem : (storeCtrl uw fwd s).inMem = s.inMem := rfl
@[simp] theorem storeCtrl_outMem : (storeCtrl uw fwd s).outMem = s.outMem := rfl
@[simp] theorem storeCtrl_hostOut : (storeCtrl uw fwd s).hostOut = s.hostOut := rfl
@[simp] theorem storeCtrl_inputCap : (storeCtrl uw fwd s).inputCap = s.inputCap := rfl
@[simp] theorem storeCtrl_doneSeen : (storeCtrl uw fwd s).doneSeen = s.doneSeen := rfl
@[simp] theorem storeCtrl_outDraw : (storeCtrl uw fwd s).outDraw = s.outDraw := rfl
@[simp] theorem storeCtrl_outStale : (storeCtrl uw fwd s).outStale = s.outStale := rfl
@[simp] theorem storeCtrl_draws : (storeCtrl uw fwd s).draws = s.draws := rfl
@[simp] theorem storeCtrl_rdata : (storeCtrl uw fwd s).rdata = s.rdata := rfl
@[simp] theorem storeCtrl_rdOut : (storeCtrl uw fwd s).rdOut = s.rdOut := rfl
@[simp] theorem storeCtrl_hostq : (storeCtrl uw fwd s).hostq = s.hostq := rfl
@[simp] theorem storeCtrl_slot : (storeCtrl uw fwd s).slot = s.slot := rfl

/-! ## latch -/

@[simp] theorem latch_forceWide : (latch w s).forceWide = s.forceWide := rfl
@[simp] theorem latch_unitWidth : (latch w s).unitWidth = s.unitWidth := rfl
@[simp] theorem latch_inLen : (latch w s).inLen = s.inLen := rfl
@[simp] theorem latch_busy : (latch w s).busy = true := rfl
@[simp] theorem latch_done : (latch w s).done = false := rfl
@[simp] theorem latch_err : (latch w s).err = 0 := rfl
@[simp] theorem latch_outLen : (latch w s).outLen = s.outLen := rfl
@[simp] theorem latch_hdrLen : (latch w s).hdrLen = s.hdrLen := rfl
@[simp] theorem latch_hdrW0 : (latch w s).hdrW0 = s.hdrW0 := rfl
@[simp] theorem latch_hdrW1 : (latch w s).hdrW1 = s.hdrW1 := rfl
@[simp] theorem latch_phase : (latch w s).phase = .scan := rfl
@[simp] theorem latch_wb : (latch w s).wb = w := rfl
@[simp] theorem latch_fw : (latch w s).fw = s.forceWide := rfl
@[simp] theorem latch_llen : (latch w s).llen = s.inLen.toNat := rfl
@[simp] theorem latch_nu : (latch w s).nu = unitCount s.inLen.toNat w := rfl
@[simp] theorem latch_pos : (latch w s).pos = 0 := rfl
@[simp] theorem latch_litStart : (latch w s).litStart = 0 := rfl
@[simp] theorem latch_litCnt : (latch w s).litCnt = 0 := rfl
@[simp] theorem latch_outCnt : (latch w s).outCnt = 0 := rfl
@[simp] theorem latch_trace : (latch w s).trace = s.trace := rfl
@[simp] theorem latch_inMem : (latch w s).inMem = s.inMem := rfl
@[simp] theorem latch_outMem : (latch w s).outMem = s.outMem := rfl
@[simp] theorem latch_hostOut : (latch w s).hostOut = s.hostOut := rfl
@[simp] theorem latch_inputCap : (latch w s).inputCap = s.inputCap := rfl
@[simp] theorem latch_doneSeen : (latch w s).doneSeen = s.doneSeen := rfl
@[simp] theorem latch_outDraw : (latch w s).outDraw = s.outDraw := rfl
@[simp] theorem latch_outStale : (latch w s).outStale = s.outStale := rfl
@[simp] theorem latch_draws : (latch w s).draws = s.draws := rfl
@[simp] theorem latch_rdata : (latch w s).rdata = s.rdata := rfl
@[simp] theorem latch_rdOut : (latch w s).rdOut = s.rdOut := rfl
@[simp] theorem latch_hostq : (latch w s).hostq = s.hostq := rfl
@[simp] theorem latch_slot : (latch w s).slot = s.slot := rfl

/-! ## takeUnit -/

@[simp] theorem takeUnit_forceWide : (takeUnit s).forceWide = s.forceWide := rfl
@[simp] theorem takeUnit_unitWidth : (takeUnit s).unitWidth = s.unitWidth := rfl
@[simp] theorem takeUnit_inLen : (takeUnit s).inLen = s.inLen := rfl
@[simp] theorem takeUnit_busy : (takeUnit s).busy = s.busy := rfl
@[simp] theorem takeUnit_done : (takeUnit s).done = s.done := rfl
@[simp] theorem takeUnit_err : (takeUnit s).err = s.err := rfl
@[simp] theorem takeUnit_outLen : (takeUnit s).outLen = s.outLen := rfl
@[simp] theorem takeUnit_hdrLen : (takeUnit s).hdrLen = s.hdrLen := rfl
@[simp] theorem takeUnit_hdrW0 : (takeUnit s).hdrW0 = s.hdrW0 := rfl
@[simp] theorem takeUnit_hdrW1 : (takeUnit s).hdrW1 = s.hdrW1 := rfl
@[simp] theorem takeUnit_phase : (takeUnit s).phase = s.phase := rfl
@[simp] theorem takeUnit_wb : (takeUnit s).wb = s.wb := rfl
@[simp] theorem takeUnit_fw : (takeUnit s).fw = s.fw := rfl
@[simp] theorem takeUnit_llen : (takeUnit s).llen = s.llen := rfl
@[simp] theorem takeUnit_nu : (takeUnit s).nu = s.nu := rfl
@[simp] theorem takeUnit_pos : (takeUnit s).pos = s.pos + 1 := rfl
@[simp] theorem takeUnit_litStart : (takeUnit s).litStart = if s.litCnt = 0 then s.pos else s.litStart := rfl
@[simp] theorem takeUnit_litCnt : (takeUnit s).litCnt = s.litCnt + 1 := rfl
@[simp] theorem takeUnit_outCnt : (takeUnit s).outCnt = s.outCnt := rfl
@[simp] theorem takeUnit_trace : (takeUnit s).trace = s.trace := rfl
@[simp] theorem takeUnit_inMem : (takeUnit s).inMem = s.inMem := rfl
@[simp] theorem takeUnit_outMem : (takeUnit s).outMem = s.outMem := rfl
@[simp] theorem takeUnit_hostOut : (takeUnit s).hostOut = s.hostOut := rfl
@[simp] theorem takeUnit_inputCap : (takeUnit s).inputCap = s.inputCap := rfl
@[simp] theorem takeUnit_doneSeen : (takeUnit s).doneSeen = s.doneSeen := rfl
@[simp] theorem takeUnit_outDraw : (takeUnit s).outDraw = s.outDraw := rfl
@[simp] theorem takeUnit_outStale : (takeUnit s).outStale = s.outStale := rfl
@[simp] theorem takeUnit_draws : (takeUnit s).draws = s.draws := rfl
@[simp] theorem takeUnit_rdata : (takeUnit s).rdata = s.rdata := rfl
@[simp] theorem takeUnit_rdOut : (takeUnit s).rdOut = s.rdOut := rfl
@[simp] theorem takeUnit_hostq : (takeUnit s).hostq = s.hostq := rfl
@[simp] theorem takeUnit_slot : (takeUnit s).slot = s.slot := rfl

/-! ## withHostq -/

@[simp] theorem withHostq_forceWide : (withHostq q s).forceWide = s.forceWide := rfl
@[simp] theorem withHostq_unitWidth : (withHostq q s).unitWidth = s.unitWidth := rfl
@[simp] theorem withHostq_inLen : (withHostq q s).inLen = s.inLen := rfl
@[simp] theorem withHostq_busy : (withHostq q s).busy = s.busy := rfl
@[simp] theorem withHostq_done : (withHostq q s).done = s.done := rfl
@[simp] theorem withHostq_err : (withHostq q s).err = s.err := rfl
@[simp] theorem withHostq_outLen : (withHostq q s).outLen = s.outLen := rfl
@[simp] theorem withHostq_hdrLen : (withHostq q s).hdrLen = s.hdrLen := rfl
@[simp] theorem withHostq_hdrW0 : (withHostq q s).hdrW0 = s.hdrW0 := rfl
@[simp] theorem withHostq_hdrW1 : (withHostq q s).hdrW1 = s.hdrW1 := rfl
@[simp] theorem withHostq_phase : (withHostq q s).phase = s.phase := rfl
@[simp] theorem withHostq_wb : (withHostq q s).wb = s.wb := rfl
@[simp] theorem withHostq_fw : (withHostq q s).fw = s.fw := rfl
@[simp] theorem withHostq_llen : (withHostq q s).llen = s.llen := rfl
@[simp] theorem withHostq_nu : (withHostq q s).nu = s.nu := rfl
@[simp] theorem withHostq_pos : (withHostq q s).pos = s.pos := rfl
@[simp] theorem withHostq_litStart : (withHostq q s).litStart = s.litStart := rfl
@[simp] theorem withHostq_litCnt : (withHostq q s).litCnt = s.litCnt := rfl
@[simp] theorem withHostq_outCnt : (withHostq q s).outCnt = s.outCnt := rfl
@[simp] theorem withHostq_trace : (withHostq q s).trace = s.trace := rfl
@[simp] theorem withHostq_inMem : (withHostq q s).inMem = s.inMem := rfl
@[simp] theorem withHostq_outMem : (withHostq q s).outMem = s.outMem := rfl
@[simp] theorem withHostq_hostOut : (withHostq q s).hostOut = s.hostOut := rfl
@[simp] theorem withHostq_inputCap : (withHostq q s).inputCap = s.inputCap := rfl
@[simp] theorem withHostq_doneSeen : (withHostq q s).doneSeen = s.doneSeen := rfl
@[simp] theorem withHostq_outDraw : (withHostq q s).outDraw = s.outDraw := rfl
@[simp] theorem withHostq_outStale : (withHostq q s).outStale = s.outStale := rfl
@[simp] theorem withHostq_draws : (withHostq q s).draws = s.draws := rfl
@[simp] theorem withHostq_rdata : (withHostq q s).rdata = s.rdata := rfl
@[simp] theorem withHostq_rdOut : (withHostq q s).rdOut = s.rdOut := rfl
@[simp] theorem withHostq_hostq : (withHostq q s).hostq = q := rfl
@[simp] theorem withHostq_slot : (withHostq q s).slot = s.slot := rfl

/-! ## takeSlot -/

@[simp] theorem takeSlot_forceWide : (takeSlot s).forceWide = s.forceWide := rfl
@[simp] theorem takeSlot_unitWidth : (takeSlot s).unitWidth = s.unitWidth := rfl
@[simp] theorem takeSlot_inLen : (takeSlot s).inLen = s.inLen := rfl
@[simp] theorem takeSlot_busy : (takeSlot s).busy = s.busy := rfl
@[simp] theorem takeSlot_done : (takeSlot s).done = s.done := rfl
@[simp] theorem takeSlot_err : (takeSlot s).err = s.err := rfl
@[simp] theorem takeSlot_outLen : (takeSlot s).outLen = s.outLen := rfl
@[simp] theorem takeSlot_hdrLen : (takeSlot s).hdrLen = s.hdrLen := rfl
@[simp] theorem takeSlot_hdrW0 : (takeSlot s).hdrW0 = s.hdrW0 := rfl
@[simp] theorem takeSlot_hdrW1 : (takeSlot s).hdrW1 = s.hdrW1 := rfl
@[simp] theorem takeSlot_phase : (takeSlot s).phase = s.phase := rfl
@[simp] theorem takeSlot_wb : (takeSlot s).wb = s.wb := rfl
@[simp] theorem takeSlot_fw : (takeSlot s).fw = s.fw := rfl
@[simp] theorem takeSlot_llen : (takeSlot s).llen = s.llen := rfl
@[simp] theorem takeSlot_nu : (takeSlot s).nu = s.nu := rfl
@[simp] theorem takeSlot_pos : (takeSlot s).pos = s.pos := rfl
@[simp] theorem takeSlot_litStart : (takeSlot s).litStart = s.litStart := rfl
@[simp] theorem takeSlot_litCnt : (takeSlot s).litCnt = s.litCnt := rfl
@[simp] theorem takeSlot_outCnt : (takeSlot s).outCnt = s.outCnt := rfl
@[simp] theorem takeSlot_trace : (takeSlot s).trace = s.trace := rfl
@[simp] theorem takeSlot_inMem : (takeSlot s).inMem = s.inMem := rfl
@[simp] theorem takeSlot_outMem : (takeSlot s).outMem = s.outMem := rfl
@[simp] theorem takeSlot_hostOut : (takeSlot s).hostOut = s.hostOut := rfl
@[simp] theorem takeSlot_inputCap : (takeSlot s).inputCap = s.inputCap := rfl
@[simp] theorem takeSlot_doneSeen : (takeSlot s).doneSeen = s.doneSeen := rfl
@[simp] theorem takeSlot_outDraw : (takeSlot s).outDraw = s.outDraw := rfl
@[simp] theorem takeSlot_outStale : (takeSlot s).outStale = s.outStale := rfl
@[simp] theorem takeSlot_draws : (takeSlot s).draws = s.draws := rfl
@[simp] theorem takeSlot_rdata : (takeSlot s).rdata = s.rdata := rfl
@[simp] theorem takeSlot_rdOut : (takeSlot s).rdOut = s.rdOut := rfl
@[simp] theorem takeSlot_hostq : (takeSlot s).hostq = s.hostq := rfl
@[simp] theorem takeSlot_slot : (takeSlot s).slot = none := rfl

/-! ## finish -/

@[simp] theorem finish_forceWide : (finish s).forceWide = s.forceWide := rfl
@[simp] theorem finish_unitWidth : (finish s).unitWidth = s.unitWidth := rfl
@[simp] theorem finish_inLen : (finish s).inLen = s.inLen := rfl
@[simp] theorem finish_busy : (finish s).busy = false := rfl
@[simp] theorem finish_done : (finish s).done = true := rfl
@[simp] theorem finish_err : (finish s).err = 0 := rfl
@[simp] theorem finish_outLen : (finish s).outLen = BitVec.ofNat 32 s.outCnt := rfl
@[simp] theorem finish_hdrLen : (finish s).hdrLen = s.hdrLen := rfl
@[simp] theorem finish_hdrW0 : (finish s).hdrW0 = s.hdrW0 := rfl
@[simp] theorem finish_hdrW1 : (finish s).hdrW1 = s.hdrW1 := rfl
@[simp] theorem finish_phase : (finish s).phase = .idle := rfl
@[simp] theorem finish_wb : (finish s).wb = s.wb := rfl
@[simp] theorem finish_fw : (finish s).fw = s.fw := rfl
@[simp] theorem finish_llen : (finish s).llen = s.llen := rfl
@[simp] theorem finish_nu : (finish s).nu = s.nu := rfl
@[simp] theorem finish_pos : (finish s).pos = s.pos := rfl
@[simp] theorem finish_litStart : (finish s).litStart = s.litStart := rfl
@[simp] theorem finish_litCnt : (finish s).litCnt = s.litCnt := rfl
@[simp] theorem finish_outCnt : (finish s).outCnt = s.outCnt := rfl
@[simp] theorem finish_trace : (finish s).trace = s.trace := rfl
@[simp] theorem finish_inMem : (finish s).inMem = s.inMem := rfl
@[simp] theorem finish_outMem : (finish s).outMem = s.outMem := rfl
@[simp] theorem finish_hostOut : (finish s).hostOut = s.hostOut := rfl
@[simp] theorem finish_inputCap : (finish s).inputCap = s.inputCap := rfl
@[simp] theorem finish_doneSeen : (finish s).doneSeen = s.doneSeen := rfl
@[simp] theorem finish_outDraw : (finish s).outDraw = s.outDraw := rfl
@[simp] theorem finish_outStale : (finish s).outStale = s.outStale := rfl
@[simp] theorem finish_draws : (finish s).draws = s.draws := rfl
@[simp] theorem finish_rdata : (finish s).rdata = s.rdata := rfl
@[simp] theorem finish_rdOut : (finish s).rdOut = s.rdOut := rfl
@[simp] theorem finish_hostq : (finish s).hostq = s.hostq := rfl
@[simp] theorem finish_slot : (finish s).slot = s.slot := rfl

/-! ## buildHeader -/

@[simp] theorem buildHeader_forceWide : (buildHeader s).forceWide = s.forceWide := by
  unfold buildHeader; split <;> rfl
@[simp] theorem buildHeader_unitWidth : (buildHeader s).unitWidth = s.unitWidth := by
  unfold buildHeader; split <;> rfl
@[simp] theorem buildHeader_inLen : (buildHeader s).inLen = s.inLen := by
  unfold buildHeader; split <;> rfl
@[simp] theorem buildHeader_busy : (buildHeader s).busy = s.busy := by
  unfold buildHeader; split <;> rfl
@[simp] theorem buildHeader_done : (buildHeader s).done = s.done := by
  unfold buildHeader; split <;> rfl
@[simp] theorem buildHeader_err : (buildHeader s).err = s.err := by
  unfold buildHeader; split <;> rfl
@[simp] theorem buildHeader_outLen : (buildHeader s).outLen = s.outLen := by
  unfold buildHeader; split <;> rfl
@[simp] theorem buildHeader_phase : (buildHeader s).phase = s.phase := by
  unfold buildHeader; split <;> rfl
@[simp] theorem buildHeader_wb : (buildHeader s).wb = s.wb := by
  unfold buildHeader; split <;> rfl
@[simp] theorem buildHeader_fw : (buildHeader s).fw = s.fw := by
  unfold buildHeader; split <;> rfl
@[simp] theorem buildHeader_llen : (buildHeader s).llen = s.llen := by
  unfold buildHeader; split <;> rfl
@[simp] theorem buildHeader_nu : (buildHeader s).nu = s.nu := by
  unfold buildHeader; split <;> rfl
@[simp] theorem buildHeader_pos : (buildHeader s).pos = s.pos := by
  unfold buildHeader; split <;> rfl
@[simp] theorem buildHeader_litStart : (buildHeader s).litStart = s.litStart := by
  unfold buildHeader; split <;> rfl
@[simp] theorem buildHeader_litCnt : (buildHeader s).litCnt = s.litCnt := by
  unfold buildHeader; split <;> rfl
@[simp] theorem buildHeader_outCnt : (buildHeader s).outCnt = s.outCnt := by
  unfold buildHeader; split <;> rfl
@[simp] theorem buildHeader_trace : (buildHeader s).trace = s.trace := by
  unfold buildHeader; split <;> rfl
@[simp] theorem buildHeader_inMem : (buildHeader s).inMem = s.inMem := by
  unfold buildHeader; split <;> rfl
@[simp] theorem buildHeader_outMem : (buildHeader s).outMem = s.outMem := by
  unfold buildHeader; split <;> rfl
@[simp] theorem buildHeader_hostOut : (buildHeader s).hostOut = s.hostOut := by
  unfold buildHeader; split <;> rfl
@[simp] theorem buildHeader_inputCap : (buildHeader s).inputCap = s.inputCap := by
  unfold buildHeader; split <;> rfl
@[simp] theorem buildHeader_doneSeen : (buildHeader s).doneSeen = s.doneSeen := by
  unfold buildHeader; split <;> rfl
@[simp] theorem buildHeader_outDraw : (buildHeader s).outDraw = s.outDraw := by
  unfold buildHeader; split <;> rfl
@[simp] theorem buildHeader_outStale : (buildHeader s).outStale = s.outStale := by
  unfold buildHeader; split <;> rfl
@[simp] theorem buildHeader_draws : (buildHeader s).draws = s.draws := by
  unfold buildHeader; split <;> rfl
@[simp] theorem buildHeader_rdata : (buildHeader s).rdata = s.rdata := by
  unfold buildHeader; split <;> rfl
@[simp] theorem buildHeader_rdOut : (buildHeader s).rdOut = s.rdOut := by
  unfold buildHeader; split <;> rfl
@[simp] theorem buildHeader_hostq : (buildHeader s).hostq = s.hostq := by
  unfold buildHeader; split <;> rfl
@[simp] theorem buildHeader_slot : (buildHeader s).slot = s.slot := by
  unfold buildHeader; split <;> rfl

/-! ## What START leaves or clears, on either branch -/

@[simp] theorem startScan_inputCap : (startScan s).inputCap = s.inputCap := by
  unfold startScan; dsimp only; split <;> rfl
@[simp] theorem startScan_inMem : (startScan s).inMem = s.inMem := by
  unfold startScan; dsimp only; split <;> rfl
@[simp] theorem startScan_rdata : (startScan s).rdata = s.rdata := by
  unfold startScan; dsimp only; split <;> rfl
@[simp] theorem startScan_rdOut : (startScan s).rdOut = s.rdOut := by
  unfold startScan; dsimp only; split <;> rfl
@[simp] theorem startScan_hostq : (startScan s).hostq = s.hostq := by
  unfold startScan; dsimp only; split <;> rfl
@[simp] theorem startScan_slot : (startScan s).slot = s.slot := by
  unfold startScan; dsimp only; split <;> rfl
@[simp] theorem startScan_doneSeen : (startScan s).doneSeen = false := by
  unfold startScan; dsimp only; split <;> rfl
@[simp] theorem startScan_trace : (startScan s).trace = [] := by
  unfold startScan; dsimp only; split <;> rfl
@[simp] theorem startScan_hostOut : (startScan s).hostOut = [] := by
  unfold startScan; dsimp only; split <;> rfl
@[simp] theorem startScan_draws : (startScan s).draws = s.draws + 1 := by
  unfold startScan; dsimp only; split <;> rfl

end Sys2Proof.Machine
end

