-- ==== Sys2Proof/Laws/Emit.lean ====
section
/-! SUPPORT. What the emits and the flush can do, said once (R66, R68, R72 to R76). -/

namespace Sys2Proof.Machine

/-! ## Lengths of byte sequences -/

@[simp] theorem be_length (v n : Nat) : (be v n).length = n := by simp [be]

@[simp] theorem beSigned_length (v : Int) (n : Nat) : (beSigned v n).length = n := by simp [beSigned]

@[simp] theorem bytesFrom_length (f : Nat → Byte) (a n : Nat) : (bytesFrom f a n).length = n := by
  simp [bytesFrom]

theorem bytesFrom_getElem (f : Nat → Byte) (a n j : Nat) (h : j < (bytesFrom f a n).length) :
    (bytesFrom f a n)[j] = f (a + j) := by simp [bytesFrom]

@[simp] theorem unitOf_length (f : Nat → Byte) (w : Width) (i : Nat) : (unitOf f w i).length = widthBytes w := by
  simp [unitOf]

@[simp] theorem unit_length (s : State) (i : Nat) : (unit s i).length = widthBytes s.wb := by simp [unit]

theorem widthBytes_pos (w : Width) : 0 < widthBytes w := by cases w <;> decide

/-! ## One segment -/

/-- An emit writes its segment where the total fits, and raises where it does not; there is no third case (R73). -/
theorem emitSegment_eq (seg : Segment) (size : Nat) (bytes : List Byte) (s : State) :
    emitSegment seg size bytes s =
      if s.outCnt + size ≤ s.llen then .ok (appendOut (s.outCnt + size) bytes (record seg s))
      else .raised (abort .expansionOverflow (record seg s)) := by
  unfold emitSegment check
  split <;> rename_i h
  · split at h <;> rename_i h'
    · cases h; rw [if_pos h']
    · cases h
  · split at h <;> rename_i h'
    · cases h
    · rw [if_neg h']

theorem emitSegment_ok {seg : Segment} {size : Nat} {bytes : List Byte} {s t : State}
    (h : emitSegment seg size bytes s = .ok t) :
    s.outCnt + size ≤ s.llen ∧ t = appendOut (s.outCnt + size) bytes (record seg s) := by
  rw [emitSegment_eq] at h
  split at h
  · exact ⟨‹_›, by cases h; rfl⟩
  · cases h

theorem emitSegment_raised {seg : Segment} {size : Nat} {bytes : List Byte} {s t : State}
    (h : emitSegment seg size bytes s = .raised t) :
    s.llen < s.outCnt + size ∧ t = abort .expansionOverflow (record seg s) := by
  rw [emitSegment_eq] at h
  split at h
  · cases h
  · exact ⟨by omega, by cases h; rfl⟩

/-- The state an emit ends in, written or raised. -/
theorem emitSegment_outcome (seg : Segment) (size : Nat) (bytes : List Byte) (s : State) :
    (emitSegment seg size bytes s).outcome =
      .next (if s.outCnt + size ≤ s.llen then appendOut (s.outCnt + size) bytes (record seg s)
        else abort .expansionOverflow (record seg s)) := by
  rw [emitSegment_eq]; split <;> rfl

/-! ## The two emits -/

/-- The bytes EMIT_RUN writes (R75). -/
theorem emitRun_def (l : Nat) (p : List Byte) (s : State) :
    emitRun l p s =
      emitSegment (.run l p) (2 * widthBytes s.wb) (be (l - 2) (widthBytes s.wb) ++ p) s := rfl

/-- The bytes EMIT_LIT writes (R76). -/
theorem emitLit_def (start k : Nat) (s : State) :
    emitLit start k s =
      emitSegment (.lit start k) (widthBytes s.wb * (1 + k))
        (beSigned (-(k : Int)) (widthBytes s.wb) ++
          bytesFrom (inp s) (start * widthBytes s.wb) (k * widthBytes s.wb)) s := rfl

/-! ## The flush -/

/-- A flush does nothing where no literal is pending (R68). -/
theorem flushLit_empty {s : State} (h : s.litCnt = 0) : flushLit s = .ok s := by
  simp [flushLit, h]

/-- A flush that ends well: nothing was pending, or the pending literal was written and LIT_CNT is 0. -/
theorem flushLit_ok {s t : State} (h : flushLit s = .ok t) :
    (s.litCnt = 0 ∧ t = s) ∨
    (0 < s.litCnt ∧ ∃ s1, emitLit s.litStart s.litCnt s = .ok s1 ∧ t = clearLit s1) := by
  unfold flushLit at h
  split at h
  · split at h
    · cases h; exact .inr ⟨‹_›, _, ‹_›, rfl⟩
    · cases h
  · cases h; exact .inl ⟨by omega, rfl⟩

/-- A flush that raises: a literal was pending and its emit raised. -/
theorem flushLit_raised {s t : State} (h : flushLit s = .raised t) :
    0 < s.litCnt ∧ emitLit s.litStart s.litCnt s = .raised t := by
  unfold flushLit at h
  split at h
  · split at h
    · cases h
    · cases h; exact ⟨‹_›, ‹_›⟩
  · cases h

/-- After a flush no literal is pending, and only OUT, OUT_CNT, LIT_CNT and the trace have changed. -/
theorem flushLit_frame {s t : State} (h : flushLit s = .ok t) :
    t.litCnt = 0 ∧
    t = { s with outMem := t.outMem, outCnt := t.outCnt, litCnt := 0, trace := t.trace } := by
  rcases flushLit_ok h with ⟨h0, rfl⟩ | ⟨_, s1, h1, rfl⟩
  · refine ⟨h0, ?_⟩
    rw [← h0]
  · rw [emitLit_def] at h1
    obtain ⟨_, rfl⟩ := emitSegment_ok h1
    exact ⟨rfl, rfl⟩

end Sys2Proof.Machine
end

