-- ==== Sys2Proof/Laws/PerInstr.lean ====
section
/-! SUPPORT. What is said of every instruction as syntax, one lemma per constructor. -/

namespace Sys2Proof.Laws.EncodedSize

/-- The code of a well-formed segment or header has the size the rules give it (R47, R48, R50, R53, R54). -/
def Statement (i : Instr) : Prop :=
  wellFormed i = true → ∀ bytes,
    ((∃ w, encode i = some (.seg w bytes)) ∨ encode i = some (.hdr bytes)) → bytes.length = encodedSize i

/-- An operation whose code is a given segment. -/
theorem of_seg {i : Instr} {w : Width} {code : List Byte} (he : encode i = some (.seg w code))
    (hl : wellFormed i = true → code.length = encodedSize i) : Statement i := by
  intro hw bytes h
  rcases h with ⟨w', h⟩ | h <;> rw [he] at h <;> cases h
  exact hl hw

/-- An operation whose code is a given header. -/
theorem of_hdr {i : Instr} {code : List Byte} (he : encode i = some (.hdr code))
    (hl : code.length = encodedSize i) : Statement i := by
  intro _ bytes h
  rcases h with ⟨w', h⟩ | h <;> rw [he] at h <;> cases h
  exact hl

/-- An operation with a register access or no code at all. -/
theorem of_other {i : Instr} (hs : ∀ w bytes, encode i ≠ some (.seg w bytes))
    (hh : ∀ bytes, encode i ≠ some (.hdr bytes)) : Statement i := by
  intro _ bytes h
  rcases h with ⟨w, h⟩ | h
  · exact absurd h (hs w bytes)
  · exact absurd h (hh bytes)

theorem run8 (n : BitVec 7) (p : Byte) : Statement (.run8 n p) := of_seg rfl fun _ => rfl

theorem lit8 (f : BitVec 7) (units : List Byte) : Statement (.lit8 f units) := by
  refine of_seg rfl fun h => ?_
  simp only [wellFormed, beq_iff_eq] at h
  simp only [List.length_cons, h, encodedSize, litCount8]
  omega

theorem run16 (n : BitVec 15) (p : BitVec 16) : Statement (.run16 n p) := of_seg rfl fun _ => rfl

theorem lit16 (f : BitVec 15) (units : List Byte) : Statement (.lit16 f units) := by
  refine of_seg rfl fun h => ?_
  simp only [wellFormed, beq_iff_eq] at h
  simp only [List.length_append, h, encodedSize, litCount16, bytes16, List.length_cons, List.length_nil]

theorem run32 (n : BitVec 31) (p : BitVec 32) : Statement (.run32 n p) := of_seg rfl fun _ => rfl

theorem lit32 (f : BitVec 31) (units : List Byte) : Statement (.lit32 f units) := by
  refine of_seg rfl fun h => ?_
  simp only [wellFormed, beq_iff_eq] at h
  simp only [List.length_append, h, encodedSize, litCount32, bytes32, List.length_cons, List.length_nil]

theorem hdr8Short (size : BitVec 16) : Statement (.hdr8Short size) := of_hdr rfl rfl
theorem hdr16Short (size : BitVec 16) : Statement (.hdr16Short size) := of_hdr rfl rfl
theorem hdr32Short (size : BitVec 16) : Statement (.hdr32Short size) := of_hdr rfl rfl
theorem hdr8Wide (size : BitVec 32) : Statement (.hdr8Wide size) := of_hdr rfl rfl
theorem hdr16Wide (size : BitVec 32) : Statement (.hdr16Wide size) := of_hdr rfl rfl
theorem hdr32Wide (size : BitVec 32) : Statement (.hdr32Wide size) := of_hdr rfl rfl
theorem hdrReserved (hi : BitVec 5) (lo : BitVec 9) : Statement (.hdrReserved hi lo) := of_hdr rfl rfl

theorem start (unitWidth : Byte) (forceWide : Bool) : Statement (.start unitWidth forceWide) :=
  of_other (fun _ _ h => by cases h) fun _ h => by cases h

theorem config (c : ConfigWrite) : Statement (.config c) := by
  cases c <;> exact of_other (fun _ _ h => by cases h) fun _ h => by cases h

theorem read (r : Reg) : Statement (.read r) := of_other (fun _ _ h => by cases h) fun _ h => by cases h
theorem scanRun : Statement .scanRun := of_other (fun _ _ h => by cases h) fun _ h => by cases h
theorem scanLit : Statement .scanLit := of_other (fun _ _ h => by cases h) fun _ h => by cases h
theorem scanEnd : Statement .scanEnd := of_other (fun _ _ h => by cases h) fun _ h => by cases h

theorem emitRun (l : Nat) (p : List Byte) : Statement (.emitRun l p) :=
  of_other (fun _ _ h => by cases h) fun _ h => by cases h

theorem emitLit (s k : Nat) : Statement (.emitLit s k) :=
  of_other (fun _ _ h => by cases h) fun _ h => by cases h

theorem hdrBuild : Statement .hdrBuild := of_other (fun _ _ h => by cases h) fun _ h => by cases h

end Sys2Proof.Laws.EncodedSize
end

