-- ==== Sys2Proof/Laws/Scan.lean ====
section
/-! SUPPORT. What the Segmenter's three decisions can do, said once (R63 to R65). -/

namespace Sys2Proof.Machine

/-- SCAN_RUN ends in one of three ways: the flush raises, the run raises, or both are written and POS moves by L. -/
theorem scanRun_cases (s : State) :
    (∃ t, flushLit s = .raised t ∧ scanRun s = t) ∨
    (∃ s1 t, flushLit s = .ok s1 ∧ emitRun (runLen s) (unit s s.pos) s1 = .raised t ∧ scanRun s = t) ∨
    (∃ s1 s2, flushLit s = .ok s1 ∧ emitRun (runLen s) (unit s s.pos) s1 = .ok s2 ∧
      scanRun s = advance (runLen s) s2) := by
  cases hf : flushLit s with
  | raised t => exact .inl ⟨t, rfl, by simp only [scanRun, hf]⟩
  | ok s1 =>
    cases he : emitRun (runLen s) (unit s s.pos) s1 with
    | raised t => exact .inr (.inl ⟨s1, t, rfl, he, by simp only [scanRun, hf, he]⟩)
    | ok s2 => exact .inr (.inr ⟨s1, s2, rfl, he, by simp only [scanRun, hf, he]⟩)

/-- SCAN_LIT ends in one of three ways: below the cap, at the cap with the literal written, or at the cap raising. -/
theorem scanLit_cases (s : State) :
    (s.litCnt + 1 ≠ maxLit s.wb ∧ scanLit s = takeUnit s) ∨
    (s.litCnt + 1 = maxLit s.wb ∧ ∃ t, emitLit (takeUnit s).litStart (takeUnit s).litCnt (takeUnit s) = .ok t ∧
      scanLit s = clearLit t) ∨
    (s.litCnt + 1 = maxLit s.wb ∧ ∃ t, emitLit (takeUnit s).litStart (takeUnit s).litCnt (takeUnit s) = .raised t ∧
      scanLit s = t) := by
  by_cases hcap : s.litCnt + 1 = maxLit s.wb
  · have hcap' : (takeUnit s).litCnt = maxLit (takeUnit s).wb := hcap
    cases he : emitLit (takeUnit s).litStart (takeUnit s).litCnt (takeUnit s) with
    | ok t => exact .inr (.inl ⟨hcap, t, rfl, by simp only [scanLit, if_pos hcap', he]⟩)
    | raised t => exact .inr (.inr ⟨hcap, t, rfl, by simp only [scanLit, if_pos hcap', he]⟩)
  · have hcap' : ¬ (takeUnit s).litCnt = maxLit (takeUnit s).wb := hcap
    exact .inl ⟨hcap, by simp only [scanLit, if_neg hcap']⟩

/-- SCAN_END ends in one of two ways: the flush raises, or the header is built and the compression succeeds. -/
theorem scanEnd_cases (s : State) :
    (∃ t, flushLit s = .raised t ∧ scanEnd s = t) ∨
    (∃ s1, flushLit s = .ok s1 ∧ scanEnd s = finish (buildHeader s1)) := by
  cases hf : flushLit s with
  | raised t => exact .inl ⟨t, rfl, by simp only [scanEnd, hf]⟩
  | ok s1 => exact .inr ⟨s1, rfl, by simp only [scanEnd, hf]⟩

/-! ## The selected operation -/

theorem selectOp_end {s : State} (h : s.pos = s.nu) : selectOp s = .scanEnd := by simp [selectOp, h]

theorem selectOp_run {s : State} (h : s.pos ≠ s.nu) (ht : trigger s = true) : selectOp s = .scanRun := by
  simp [selectOp, h, ht]

theorem selectOp_lit {s : State} (h : s.pos ≠ s.nu) (ht : trigger s = false) : selectOp s = .scanLit := by
  simp [selectOp, h, ht]

/-- A trigger needs units: POS < NU. -/
theorem trigger_pos_lt {s : State} (ht : trigger s = true) : s.pos < s.nu := by
  simp only [trigger, triggerOf, Bool.and_eq_true, decide_eq_true_eq] at ht
  have : 2 ≤ thresholdOf s.wb s.litCnt := by unfold thresholdOf; split <;> omega
  omega

/-- What the selected operation does in a state between core steps. -/
theorem exec_selectOp {s t : State} (hp : s.phase = .scan) (h : exec (selectOp s) s = .next t) :
    (s.pos = s.nu ∧ t = scanEnd s) ∨
    (s.pos < s.nu ∧ trigger s = true ∧ t = scanRun s) ∨
    (s.pos < s.nu ∧ trigger s = false ∧ t = scanLit s) := by
  by_cases hend : s.pos = s.nu
  · rw [selectOp_end hend] at h
    simp only [exec, execScanEnd, hp, hend, and_self, if_true] at h
    cases h; exact .inl ⟨hend, rfl⟩
  · cases ht : trigger s with
    | true =>
      rw [selectOp_run hend ht] at h
      have hlt := trigger_pos_lt ht
      simp only [exec, execScanRun, hp, hlt, ht, and_self, if_true] at h
      cases h; exact .inr (.inl ⟨hlt, rfl, rfl⟩)
    | false =>
      rw [selectOp_lit hend ht] at h
      by_cases hlt : s.pos < s.nu
      · simp only [exec, execScanLit, hp, hlt, ht, and_self, if_true] at h
        cases h; exact .inr (.inr ⟨hlt, rfl, rfl⟩)
      · simp only [exec, execScanLit, hp, hlt, ht, false_and, and_false, if_false] at h
        cases h

end Sys2Proof.Machine
end

