-- ==== Sys2Proof/Laws/Step.lean ====
section
/-! SUPPORT. What one step does, by what the state presents, said once. -/

namespace Sys2Proof.Machine

@[simp] theorem perform_run (i : Instr) (t : State) : perform (.run i t) = exec i t := rfl

@[simp] theorem perform_moved (o : Host.Outcome State Fault Refusal) : perform (.moved o) = o := rfl

theorem step_slot {s : State} {c : Slot} (hs : s.slot = some c) {i : Instr}
    (hd : decodePadded c.width c.head c.pad = .ok i) : step s = exec i (takeSlot s) := by
  simp only [step, fetch, hs, slotTurn, hd, perform_run]

/-- The core's turn: the selected operation while PHASE = SCAN, nothing while IDLE. -/
theorem perform_coreTurn (s : State) :
    perform (coreTurn s) = if s.phase = .scan then exec (selectOp s) s else .next s := by
  unfold coreTurn; split <;> rfl

theorem step_core {s : State} (hs : s.slot = none) (hq : s.hostq = []) :
    step s = if s.phase = .scan then exec (selectOp s) s else .next s := by
  simp only [step, fetch, hs, hq, perform_coreTurn]

theorem step_move {s : State} {m : HostMove} {q : List HostMove} (hs : s.slot = none) (hq : s.hostq = m :: q) :
    step s = perform (hostTurn m s (withHostq q s)) := by
  simp only [step, fetch, hs, hq]

/-- A turn of the core that answers a next state ran the selected operation, or was idle. -/
theorem coreTurn_next {s t : State} (h : perform (coreTurn s) = .next t) :
    s.phase = .scan ∧ exec (selectOp s) s = .next t ∨ s.phase ≠ .scan ∧ t = s := by
  rw [perform_coreTurn] at h
  split at h
  · exact .inl ⟨‹_›, h⟩
  · cases h; exact .inr ⟨‹_›, rfl⟩

/-- A register access with a meaning runs, unless it is a START above the cap (I4). -/
theorem perform_accessTurn {a : Access} {i : Instr} (hd : decodeAccess a = .ok i) (s : State) :
    perform (accessTurn a s) = if startsAboveCap i s = true then .refused .lengthAboveCap else exec i s := by
  simp only [accessTurn, hd]; split <;> rfl

/-- Only a START of a legal width with BUSY = 0 can be above the cap. -/
theorem startsAboveCap_start (uw : Byte) (fwd : Bool) (s : State) :
    startsAboveCap (.start uw fwd) s = true ↔
      s.busy = false ∧ (legalWidth uw).isSome = true ∧ s.inputCap < s.inLen.toNat := by
  simp [startsAboveCap, and_assoc]

/-- A read of OUT by the host that answers a next state changes only what it read and the draws (R91, R42). -/
theorem hostReadOut_next {n : Nat} {s t : State} (h : hostReadOut n s = .next t) :
    (outVisible s = true ∧ t = { s with rdOut := (List.range n).map (outByte s) }) ∨
    (outVisible s = false ∧
      t = { s with rdOut := (List.range n).map (Config.outByte s.draws), draws := s.draws + 1 }) := by
  unfold hostReadOut at h
  split at h
  · cases h
  · split at h <;> cases h
    · exact .inl ⟨‹_›, rfl⟩
    · exact .inr ⟨by simpa using ‹¬ outVisible s = true›, rfl⟩

/-- Every step that answers a next state, by its cause: a register access, a host move that is complete in itself, the end of
a WAIT, or the core's turn. -/
theorem step_next {s t : State} (hs : s.slot = none) (h : step s = .next t) :
    (∃ a q i, s.hostq = .access a :: q ∧ decodeAccess a = .ok i ∧ startsAboveCap i (withHostq q s) = false ∧
      exec i (withHostq q s) = .next t) ∨
    (∃ off bytes q, s.hostq = .fillIn off bytes :: q ∧ hostFillIn off bytes (withHostq q s) = .next t) ∨
    (∃ off bytes q, s.hostq = .fillOut off bytes :: q ∧ hostFillOut off bytes (withHostq q s) = .next t) ∨
    (∃ n q, s.hostq = .readOut n :: q ∧ hostReadOut n (withHostq q s) = .next t) ∨
    (∃ q, s.hostq = .reset :: q ∧ t = hostReset (withHostq q s)) ∨
    (∃ q, s.hostq = .wait :: q ∧ s.done = true ∧ exec (.read .status) (withHostq q s) = .next t) ∨
    (∃ s', (s' = s ∨ ∃ q, s' = withHostq q s) ∧
      (s'.phase = .scan ∧ exec (selectOp s') s' = .next t ∨ s'.phase ≠ .scan ∧ t = s')) := by
  cases hq : s.hostq with
  | nil =>
    simp only [step, fetch, hs, hq] at h
    exact .inr (.inr (.inr (.inr (.inr (.inr ⟨s, .inl rfl, coreTurn_next h⟩)))))
  | cons m q =>
    rw [step_move hs hq] at h
    cases m with
    | access a =>
      cases hd : decodeAccess a with
      | ok i =>
        simp only [hostTurn, perform_accessTurn hd] at h
        split at h
        · cases h
        · exact .inl ⟨a, q, i, rfl, hd, by simpa using ‹¬ _ = true›, h⟩
      | error e => simp only [hostTurn, accessTurn, hd] at h; cases h
    | fillIn off bytes => exact .inr (.inl ⟨off, bytes, q, rfl, h⟩)
    | fillOut off bytes => exact .inr (.inr (.inl ⟨off, bytes, q, rfl, h⟩))
    | readOut n => exact .inr (.inr (.inr (.inl ⟨n, q, rfl, h⟩)))
    | reset => cases h; exact .inr (.inr (.inr (.inr (.inl ⟨q, rfl, rfl⟩))))
    | wait =>
      simp only [hostTurn, waitTurn] at h
      split at h
      · exact .inr (.inr (.inr (.inr (.inr (.inl ⟨q, rfl, ‹_›, h⟩)))))
      · exact .inr (.inr (.inr (.inr (.inr (.inr ⟨s, .inl rfl, coreTurn_next h⟩)))))
    | letCore =>
      exact .inr (.inr (.inr (.inr (.inr (.inr ⟨_, .inr ⟨q, rfl⟩, coreTurn_next h⟩)))))

end Sys2Proof.Machine
end

