-- ==== Sys2Proof/Tests/Slice0.lean ====
section
/-! SUPPORT. Tests: ill-formed terms, words written out from the spec, single steps whose results the spec gives
(95_test_vectors.md), and for every statement with hypotheses a state and operands that meet them. -/

namespace Sys2Proof.Tests

open Sys2Proof.Machine

/-! ## Small states -/

/-- The machine after reset with the input filled in and IN_LEN written. -/
def filled (bytes : List Byte) : State :=
  { State.reset with
    inMem := bytes.zipIdx.map fun x => (x.2, x.1)
    inLen := BitVec.ofNat 32 bytes.length }

/-- The machine right after START on an input. -/
def started (w : Width) (bytes : List Byte) : State :=
  startScan (storeCtrl (BitVec.ofNat 8 (8 * widthBytes w)) false (filled bytes))

/-- A scanning state of width w with room for `llen` bytes of output, `litCnt` units pending. -/
def scanning (w : Width) (llen nu pos litCnt : Nat) : State :=
  { State.reset with
    phase := .scan, busy := true, wb := w, llen := llen, nu := nu, pos := pos, litCnt := litCnt }

/-- What a field reads in the next state, none where there is none. -/
def after {α : Type} (o : Host.Outcome State Fault Refusal) (f : State → α) : Option α :=
  match o with
  | .next t => some (f t)
  | .fault _ => none
  | .refused _ => none

/-- There is a next state. -/
def goesOn (o : Host.Outcome State Fault Refusal) : Bool := (after o fun _ => ()).isSome

/-- The refusal, where there is one. -/
def refusal (o : Host.Outcome State Fault Refusal) : Option Refusal :=
  match o with
  | .next _ => none
  | .fault _ => none
  | .refused r => some r

/-- The input of program P1 (95_test_vectors.md). -/
def p1 : List Byte := [0x41, 0x41, 0x41, 0x41, 0x41, 0x42, 0x43, 0x44, 0x44, 0x44, 0x44]

/-! ## Ill-formed terms -/

theorem test_wf_lit8 : wellFormed (.lit8 127 [0x42, 0x43]) = false := by decide
theorem test_wf_lit16 : wellFormed (.lit16 32767 [0x42]) = false := by decide
theorem test_wf_lit32 : wellFormed (.lit32 2147483647 [0x42]) = false := by decide
theorem test_wf_readOnly_ctrl : wellFormed (.config (.readOnly .ctrl 0)) = false := by decide
theorem test_wf_readOnly_inLen : wellFormed (.config (.readOnly .inLen 0)) = false := by decide
theorem test_wf_emitRun_short : wellFormed (.emitRun 1 [0x42]) = false := by decide
theorem test_wf_emitRun_pattern : wellFormed (.emitRun 2 [0x42, 0x43, 0x44]) = false := by decide
theorem test_wf_emitLit_empty : wellFormed (.emitLit 0 0) = false := by decide
theorem test_wf_accepts : wellFormed (.lit8 126 [0x42, 0x43]) = true ∧ wellFormed (.emitRun 3 [0x12, 0x34]) = true := by
  decide

/-! ## Words written out from the encodings of R17, R18, R46 to R55 -/

theorem test_decode_run8 : decode (.seg .w1 [0x03, 0x41]) = .ok (.run8 3 0x41) := by decide
theorem test_decode_run8_max : decode (.seg .w1 [0x7F, 0x41]) = .ok (.run8 127 0x41) := by decide
theorem test_decode_lit8 : decode (.seg .w1 [0xFE, 0x42, 0x43]) = .ok (.lit8 126 [0x42, 0x43]) := by decide
theorem test_decode_run16 : decode (.seg .w2 [0x1C, 0x3D, 0xAB, 0xCD]) = .ok (.run16 7229 0xABCD) := by decide
theorem test_decode_lit16 : decode (.seg .w2 [0xFF, 0xFF, 0x12, 0x34]) = .ok (.lit16 32767 [0x12, 0x34]) := by decide
theorem test_decode_run32 :
    decode (.seg .w4 [0, 0, 0, 1, 0xAA, 0xBB, 0xCC, 0xDD]) = .ok (.run32 1 0xAABBCCDD) := by decide
theorem test_decode_lit32 :
    decode (.seg .w4 [0xFF, 0xFF, 0xFF, 0xFF, 1, 2, 3, 4]) = .ok (.lit32 2147483647 [1, 2, 3, 4]) := by decide
theorem test_decode_hdr8Short : decode (.hdr [0x00, 0x00, 0xFF, 0xFF]) = .ok (.hdr8Short 65535) := by decide
theorem test_decode_hdr16Short : decode (.hdr [0x02, 0x00, 0x00, 0x06]) = .ok (.hdr16Short 6) := by decide
theorem test_decode_hdr32Short : decode (.hdr [0x04, 0x00, 0x00, 0x11]) = .ok (.hdr32Short 17) := by decide
theorem test_decode_hdr8Wide : decode (.hdr [0x00, 0x08, 0, 0, 0x00, 0x01, 0x11, 0x70]) = .ok (.hdr8Wide 70000) := by
  decide
theorem test_decode_hdr16Wide : decode (.hdr [0x02, 0x08, 0, 0, 0x00, 0x01, 0x38, 0x80]) = .ok (.hdr16Wide 80000) := by
  decide
theorem test_decode_hdr32Wide :
    decode (.hdr [0x04, 0x08, 0, 0, 0xFF, 0xFF, 0xFF, 0xFF]) = .ok (.hdr32Wide 4294967295) := by decide
theorem test_decode_hdrReserved : decode (.hdr [0x06, 0x00, 0x00, 0x00]) = .ok (.hdrReserved 0 0) := by decide
theorem test_decode_start : decode (.reg ⟨true, 0x00, 4, 0x00000801⟩) = .ok (.start 8 false) := by decide
theorem test_decode_config : decode (.reg ⟨true, 0x00, 4, 0x00001002⟩) = .ok (.config (.ctrl 16 true)) := by decide
theorem test_decode_config_inLen : decode (.reg ⟨true, 0x04, 4, 0x0000000B⟩) = .ok (.config (.inLen 11)) := by decide
theorem test_decode_read : decode (.reg ⟨false, 0x18, 4, 0⟩) = .ok (.read .hdrW1) := by decide
theorem test_decode_truncated : decode (.seg .w1 [0xFE, 0x42]) = .error .truncatedSegment := by decide
theorem test_decode_noRegister : decode (.reg ⟨false, 0x1C, 4, 0⟩) = .error .noSuchRegister := by decide
theorem test_tableWord : decodeTableWord 8 0x80 = some (.lit8 0 (List.replicate 128 0)) := by decide +kernel

/-! ## Single steps -/

/-- P1, step 1: SCAN_RUN with T = 2 and L = 5. -/
theorem test_scanRun_p1 :
    after (exec .scanRun (started .w1 p1)) (fun t => (t.pos, t.litCnt, t.outCnt, t.outMem)) =
      some (5, 0, 2, [(0, 0x03), (1, 0x41)]) := by decide

/-- P1, step 4: SCAN_RUN flushes LIT(5, 2), then emits RUN 4, [44]. -/
theorem test_scanRun_flush_p1 :
    after (exec .scanRun { started .w1 p1 with pos := 7, litStart := 5, litCnt := 2, outCnt := 2 })
      (fun t => ((t.pos, t.litCnt, t.outCnt), t.outMem, t.trace)) =
      some ((11, 0, 7), [(2, 0xFE), (3, 0x42), (4, 0x43), (5, 0x02), (6, 0x44)], [.lit 5 2, .run 4 [0x44]]) := by decide

/-- P1, step 2: SCAN_LIT takes unit 5. -/
theorem test_scanLit_p1 :
    after (exec .scanLit { started .w1 p1 with pos := 5, outCnt := 2 }) (fun t => (t.pos, t.litStart, t.litCnt)) =
      some (6, 5, 1) := by decide

/-- P1, step 5: SCAN_END builds the header and ends with STATUS 0x2. -/
theorem test_scanEnd_p1 :
    after (exec .scanEnd { started .w1 p1 with pos := 11, litStart := 5, outCnt := 7 })
      (fun t => (statusWord t, t.outLen, t.hdrLen, t.hdrW0, t.hdrW1)) = some (0x2, 7, 4, 0x0B, 0) := by decide

/-- E2: the final flush of the input 41 41 42 does not fit; STATUS 0x22 and the failing segment is in the trace. -/
theorem test_scanEnd_e2 :
    after (exec .scanEnd { started .w1 [0x41, 0x41, 0x42] with pos := 3, litStart := 2, litCnt := 1, outCnt := 2 })
      (fun t => (statusWord t, t.outLen, t.trace)) = some (0x22, 0, [.lit 2 1]) := by decide

/-- V-SEG-2: with a literal pending two equal bytes are no run. -/
theorem test_threshold_pending :
    selectOp { started .w1 [0x42, 0x41, 0x41, 0x43] with pos := 1, litCnt := 1 } = .scanLit := by decide

/-- V-SEG-14: the zero-padded last unit joins the run. -/
theorem test_padding_joins_run :
    after (exec .scanRun (started .w2 [0, 0, 0, 0, 0])) (fun t => (t.pos, t.trace)) = some (3, [.run 3 [0, 0]]) := by
  decide

/-- R75: L = 32769 and pattern AB CD give 7F FF AB CD. -/
theorem test_emitRun_max :
    after (exec (.emitRun 32769 [0xAB, 0xCD]) (scanning .w2 4 40000 0 0)) (fun t => t.outMem) =
      some [(0, 0x7F), (1, 0xFF), (2, 0xAB), (3, 0xCD)] := by decide

/-- R76: the two units 42 43 from unit 5 on give FE 42 43. -/
theorem test_emitLit :
    after (exec (.emitLit 5 2) (started .w1 p1)) (fun t => (t.outCnt, t.outMem)) =
      some (3, [(0, 0xFE), (1, 0x42), (2, 0x43)]) := by decide

/-- R95, V-SEG-20: LIT 1 in one byte. -/
theorem test_emitLit_overflow :
    after (exec (.emitLit 0 1) (started .w1 [0x41])) statusWord = some 0x22 := by decide

/-- V-HDR-9 (the width and FW = 0 of HDR16_WIDE). -/
theorem test_hdrBuild_wide :
    after (exec .hdrBuild (scanning .w2 80000 40000 0 0)) (fun t => (t.hdrLen, t.hdrW0, t.hdrW1)) =
      some (8, 0x02080000, 0x00013880) := by decide

/-- V-HDR-3: 65535 still takes the 16-bit form. -/
theorem test_hdrBuild_short :
    after (exec .hdrBuild (scanning .w1 65535 65535 0 0)) (fun t => (t.hdrLen, t.hdrW0, t.hdrW1)) =
      some (4, 0x0000FFFF, 0) := by decide

/-- R85: CTRL = 0x00000801 with IN_LEN = 11. -/
theorem test_start :
    after (exec (.start 8 false) (filled p1)) (fun t => (t.wb, t.fw, t.llen, t.nu, statusWord t)) =
      some (.w1, false, 11, 11, 0x1) := by decide

/-- V-CMD-3: UNIT_WIDTH = 12. -/
theorem test_start_illegal :
    after (exec (.start 12 false) (filled p1)) (fun t => (statusWord t, regValue t .ctrl)) = some (0x12, 0xC00) := by
  decide

/-- V-CMD-5: CONFIG after a success leaves STATUS and OUT_LEN. -/
theorem test_config :
    after (exec (.config (.ctrl 16 true)) { filled p1 with done := true, outLen := 7 })
      (fun t => (regValue t .ctrl, statusWord t, t.outLen)) = some (0x1002, 0x2, 7) := by decide

/-- V-CMD-7: an IN_LEN write while BUSY is ignored. -/
theorem test_config_busy :
    after (exec (.config (.inLen 5)) (started .w1 p1)) (fun t => regValue t .inLen) = some 11 := by decide

/-- V-CMD-8: OUT_LEN reads 0 while BUSY. -/
theorem test_read_busy :
    after (exec (.read .outLen) { started .w1 p1 with outLen := 7 }) (fun t => t.rdata) = some 0 := by decide

/-- R42: a read of STATUS is the synchronisation point only where it finds DONE = 1. -/
theorem test_read_sync :
    after (exec (.read .status) { filled p1 with done := true }) (fun t => (t.doneSeen, t.rdata)) = some (true, 0x2) ∧
    after (exec (.read .status) (started .w1 p1)) (fun t => (t.doneSeen, t.rdata)) = some (false, 0x1) := by decide

/-- R42: OUT is readable after that point, and its byte here is the one written. -/
theorem test_readOut_sync :
    after (step { State.reset with hostq := [.readOut 1], outMem := [(0, 0x41)], done := true, doneSeen := true })
      (fun t => (t.rdOut, t.draws)) = some ([0x41], 1) ∧
    after (step { State.reset with hostq := [.readOut 1], outMem := [(0, 0x41)], done := true }) (fun t => t.draws) =
      some 2 := by decide

/-- I4: 11 bytes under a cap of 10 are refused, under a cap of 11 they are not. -/
theorem test_start_cap :
    refusal (step { filled p1 with inputCap := 10, hostq := [.access ⟨true, 0x00, 4, 0x801⟩] }) = some .lengthAboveCap ∧
    goesOn (step { filled p1 with inputCap := 11, hostq := [.access ⟨true, 0x00, 4, 0x801⟩] }) = true := by decide

/-- R31, I6: a new compression leaves of OUT only what the host stored, not what the last one wrote below OUT_CNT = 2. -/
theorem test_start_out :
    after (exec (.start 8 false) { filled p1 with
        done := true, outCnt := 2, outMem := [(0, 0x11), (1, 0x22), (5, 0x33)], hostOut := [(1, 0x22)] })
      (fun t => (t.outMem, drawAt t.outDraw t.outStale 0, drawAt t.outDraw t.outStale 2)) =
      some ([(1, 0x22), (5, 0x33)], 1, 0) := by decide

/-- RUN8 of 95_test_vectors.md (L = 5). -/
theorem test_run8 :
    after (exec (.run8 3 0x41) (scanning .w1 2 2 0 0)) (fun t => (t.outMem, t.trace)) =
      some ([(0, 0x03), (1, 0x41)], [.run 5 [0x41]]) := by decide

/-- LIT8 of R76's example. -/
theorem test_lit8 :
    after (exec (.lit8 126 [0x42, 0x43]) (scanning .w1 3 3 0 0)) (fun t => t.outMem) =
      some [(0, 0xFE), (1, 0x42), (2, 0x43)] := by decide

/-- The reserved header type stops. -/
theorem test_hdrReserved : refusal (exec (.hdrReserved 0 0) State.reset) = some .reservedType := by decide

/-! ## Witnesses: states and operands that meet the hypotheses of the statements, clause by clause -/

theorem witness_ResetValues :
    ({ State.reset with hostq := [.reset] } : State).slot = none ∧
    goesOn (step { State.reset with hostq := [.reset] }) = true ∧
    (let s : State := { filled p1 with done := true, outCnt := 2, outMem := [(0, 0x11), (1, 0x22)] };
      s.busy = false ∧ (8 : Byte).toNat = 8 * widthBytes .w1 ∧ goesOn (exec (.start 8 false) s) = true ∧ s.err = 0 ∧
        1 < s.outCnt ∧ s.hostOut.read? 1 = none) := by decide

theorem witness_StepRunsDecodedOperation :
    (decodePadded none [0x06, 0x00] 2 = .ok (.hdrReserved 0 0)) ∧
    (decodeAccess ⟨false, 0x18, 4, 0⟩ = .ok (.read .hdrW1)) ∧
    (decodeAccess ⟨true, 0x00, 4, 0x801⟩ = .ok (.start 8 false) ∧ (filled p1).inLen.toNat ≤ (filled p1).inputCap) ∧
    ((started .w1 p1).hostq = [] ∧ (started .w1 p1).slot = none ∧ (started .w1 p1).phase = .scan) ∧
    (State.reset.hostq = [] ∧ State.reset.slot = none ∧ State.reset.phase = .idle) ∧
    ({ started .w1 p1 with hostq := [.letCore] } : State).phase = .scan ∧
    ({ State.reset with hostq := [.letCore] } : State).phase = .idle ∧
    ({ State.reset with hostq := [.wait], done := true } : State).done = true ∧
    ({ started .w1 p1 with hostq := [.wait] } : State).done = false := by decide

theorem witness_AccessesWithoutMeaningRefused :
    (⟨false, 0x00, 2, 0⟩ : Access).size ≠ 4 ∧
    (⟨false, 0x1C, 4, 0⟩ : Access).offset ∉ [0x00, 0x04, 0x08, 0x0C, 0x10, 0x14, 0x18] ∧
    (⟨false, 0x02, 4, 0⟩ : Access).offset ∉ [0x00, 0x04, 0x08, 0x0C, 0x10, 0x14, 0x18] ∧
    (⟨false, 0x18, 4, 0⟩ : Access).size = 4 ∧
    (⟨false, 0x18, 4, 0⟩ : Access).offset ∈ [0x00, 0x04, 0x08, 0x0C, 0x10, 0x14, 0x18] := by decide

theorem witness_ConfigStores :
    (0xFFFFFFFE : Word).getLsbD 0 = false ∧ State.reset.busy = false ∧ (started .w1 p1).busy = true := by decide

theorem witness_StartLatches :
    (0xFFFFFFFF : Word).getLsbD 0 = true ∧ State.reset.busy = false ∧
    (8 : Byte).toNat = 8 * widthBytes .w1 ∧ (16 : Byte).toNat = 8 * widthBytes .w2 ∧
    (32 : Byte).toNat = 8 * widthBytes .w4 := by decide

theorem witness_StartRejectsIllegalWidth :
    State.reset.busy = false ∧ (0 : Byte) ≠ 8 ∧ (0 : Byte) ≠ 16 ∧ (0 : Byte) ≠ 32 ∧ (0xFF : Byte) ≠ 8 ∧
    (0xFF : Byte) ≠ 16 ∧ (0xFF : Byte) ≠ 32 := by decide

theorem witness_StartWhileBusyLost : (started .w2 p1).busy = true := by decide

theorem witness_FlagsWritten :
    goesOn (exec (.start 32 true) State.reset) = true ∧ goesOn (exec (.start 31 true) State.reset) = true ∧
    State.reset.busy = false ∧ (goesOn (exec (.start 8 true) (started .w1 p1)) = true ∧ (started .w1 p1).busy = true) ∧
    goesOn (exec .scanEnd (scanning .w1 0 0 0 0)) = true ∧ goesOn (exec .scanEnd (scanning .w1 0 0 0 1)) = true := by
  decide

theorem witness_HostMovesOnSpaces :
    State.reset.busy = false ∧ State.reset.slot = none ∧ (started .w1 p1).busy = true ∧ (started .w1 p1).slot = none ∧
    (2 ^ 32 - 2) + [(0x41 : Byte)].length < 2 ^ 32 ∧ 2 ^ 32 - 1 < 2 ^ 32 ∧
    ({ State.reset with doneSeen := true } : State).doneSeen = true ∧
    ({ State.reset with doneSeen := true } : State).busy = false ∧ State.reset.doneSeen = false := by decide

theorem witness_TriggerThreshold :
    ((scanning .w1 9 9 0 0).wb = .w1 ∧ (scanning .w1 9 9 0 0).litCnt = 0) ∧
    ¬ ((scanning .w1 9 9 0 1).wb = .w1 ∧ (scanning .w1 9 9 0 1).litCnt = 0) ∧
    ¬ ((scanning .w2 9 9 0 0).wb = .w1 ∧ (scanning .w2 9 9 0 0).litCnt = 0) := by decide

theorem witness_RunLengthIsGreatest :
    trigger (started .w1 [0x41, 0x41]) = true ∧ threshold (started .w1 [0x41, 0x41]) ≤ 2 ∧ 2 ≤ maxRun .w1 ∧
    (started .w1 [0x41, 0x41]).pos + 2 ≤ (started .w1 [0x41, 0x41]).nu := by decide

theorem witness_PaddedInput :
    16 < (scanning .w4 17 5 0 0).llen ∧ (scanning .w4 17 5 0 0).llen ≤ 17 ∧
    (scanning .w4 17 5 0 0).llen % widthBytes (scanning .w4 17 5 0 0).wb ≠ 0 := by decide

/-- The clauses in order: L = 2; the run fits exactly; it does not; the flush does not fit; the flush fits and the run does
not; both fit exactly. -/
theorem witness_ScanRunEffect :
    (runLen (started .w1 [0x41, 0x41]) = 2 ∧ trigger (started .w1 [0x41, 0x41]) = true) ∧
    (let s := started .w1 [0x41, 0x41];
      s.phase = .scan ∧ s.pos < s.nu ∧ s.litCnt = 0 ∧ s.outCnt + 2 * widthBytes s.wb = s.llen) ∧
    (let s := { started .w1 [0x41, 0x41] with outCnt := 1 };
      trigger s = true ∧ s.pos < s.nu ∧ s.litCnt = 0 ∧ s.llen < s.outCnt + 2 * widthBytes s.wb) ∧
    (let s := { started .w1 [0x42, 0x41, 0x41, 0x41] with pos := 1, litCnt := 1, outCnt := 3 };
      trigger s = true ∧ s.pos < s.nu ∧ 0 < s.litCnt ∧ s.llen < s.outCnt + widthBytes s.wb * (1 + s.litCnt)) ∧
    (let s := { started .w1 [0x42, 0x41, 0x41, 0x41] with pos := 1, litCnt := 1, outCnt := 2 };
      trigger s = true ∧ 0 < s.litCnt ∧ s.outCnt + widthBytes s.wb * (1 + s.litCnt) = s.llen ∧
        s.llen < s.outCnt + widthBytes s.wb * (1 + s.litCnt) + 2 * widthBytes s.wb) ∧
    (let s := { started .w1 [0x42, 0x41, 0x41, 0x41] with pos := 1, litCnt := 1 };
      trigger s = true ∧ 0 < s.litCnt ∧
        s.outCnt + widthBytes s.wb * (1 + s.litCnt) + 2 * widthBytes s.wb = s.llen) := by decide

/-- The clauses in order: below the cap; at the cap, fitting exactly; at the cap, one byte short. -/
theorem witness_ScanLitEffect :
    (let s := scanning .w1 128 128 127 0;
      s.phase = .scan ∧ s.pos < s.nu ∧ trigger s = false ∧ s.litCnt + 1 ≠ maxLit s.wb) ∧
    (let s := scanning .w1 129 128 127 127;
      s.phase = .scan ∧ s.pos < s.nu ∧ trigger s = false ∧ s.litCnt + 1 = maxLit s.wb ∧
        s.outCnt + widthBytes s.wb * (1 + (s.litCnt + 1)) = s.llen) ∧
    (let s := scanning .w1 128 128 127 127;
      s.phase = .scan ∧ s.pos < s.nu ∧ trigger s = false ∧ s.litCnt + 1 = maxLit s.wb ∧
        s.llen < s.outCnt + widthBytes s.wb * (1 + (s.litCnt + 1))) := by decide

theorem witness_ScanEndEffect :
    (let s := scanning .w1 0 0 0 0;
      s.phase = .scan ∧ s.pos = s.nu ∧ s.litCnt = 0) ∧
    (let s := scanning .w1 2 1 1 1;
      s.pos = s.nu ∧ 0 < s.litCnt ∧ s.outCnt + widthBytes s.wb * (1 + s.litCnt) = s.llen) ∧
    (let s := scanning .w1 1 1 1 1;
      s.pos = s.nu ∧ 0 < s.litCnt ∧ s.llen < s.outCnt + widthBytes s.wb * (1 + s.litCnt)) := by decide

theorem witness_OneOperationSelected :
    (let s := started .w1 p1;
      s.phase = .scan ∧ s.pos ≤ s.nu ∧ trigger s = true) ∧
    (let s := { started .w1 p1 with pos := 5 };
      s.phase = .scan ∧ s.pos ≤ s.nu ∧ trigger s = false) ∧
    (let s := { started .w1 p1 with pos := 11 };
      s.phase = .scan ∧ s.pos = s.nu) := by decide

theorem witness_UnselectedOperationsRefused :
    State.reset.phase = .idle ∧ (scanning .w1 9 9 0 0).phase = .scan ∧
    ¬ (2 ≤ 130 ∧ 130 ≤ maxRun .w1 ∧ [(0x41 : Byte)].length = widthBytes .w1) ∧
    ¬ (1 ≤ 129 ∧ 129 ≤ maxLit .w1 ∧ 0 + 129 ≤ 200) ∧
    encode (.run8 0 0) = some (.seg .w1 [0, 0]) ∧ (scanning .w2 9 9 0 0).wb ≠ .w1 ∧
    headerInfo (.hdr8Short 8) = some (.w1, 8, 4) ∧ (scanning .w1 9 9 0 0).llen ≠ 8 := by decide

theorem witness_EmitRunEffect :
    (let s := scanning .w1 2 200 0 0;
      s.phase = .scan ∧ 2 ≤ 129 ∧ 129 ≤ maxRun s.wb ∧ [(0x41 : Byte)].length = widthBytes s.wb ∧
        s.outCnt + 2 * widthBytes s.wb = s.llen) ∧
    (let s := scanning .w1 1 200 0 0;
      s.phase = .scan ∧ 2 ≤ maxRun s.wb ∧ s.llen < s.outCnt + 2 * widthBytes s.wb) := by decide

theorem witness_EmitLitEffect :
    (let s := scanning .w1 129 128 0 0;
      s.phase = .scan ∧ 1 ≤ 128 ∧ 128 ≤ maxLit s.wb ∧ 0 + 128 ≤ s.nu ∧
        s.outCnt + widthBytes s.wb * (1 + 128) = s.llen) ∧
    (let s := scanning .w1 1 1 0 0;
      s.phase = .scan ∧ 1 ≤ maxLit s.wb ∧ 0 + 1 ≤ s.nu ∧ s.llen < s.outCnt + widthBytes s.wb * (1 + 1)) := by decide

theorem witness_RunFormsAreEmitRun :
    (scanning .w1 2 2 0 0).phase = .scan ∧ (scanning .w1 2 2 0 0).wb = .w1 ∧ (scanning .w2 4 2 0 0).wb = .w2 ∧
    (scanning .w4 8 2 0 0).wb = .w4 := by decide

theorem witness_RunFormsComplete :
    (encode (.run8 0 0x41) = some (.seg .w1 [0, 0x41]) ∧ 0 + encodedSize (.run8 0 0x41) ≤ (scanning .w1 2 2 0 0).llen) ∧
    (encode (.run16 0x7FFF 0xABCD) = some (.seg .w2 [0x7F, 0xFF, 0xAB, 0xCD]) ∧
      0 + encodedSize (.run16 0x7FFF 0xABCD) ≤ (scanning .w2 4 2 0 0).llen) ∧
    (encode (.run32 1 0) = some (.seg .w4 [0, 0, 0, 1, 0, 0, 0, 0]) ∧
      (scanning .w4 7 2 0 0).llen < 0 + encodedSize (.run32 1 0)) := by decide

theorem witness_LitFormsComplete :
    (encode (.lit8 127 [0x41]) = some (.seg .w1 [0xFF, 0x41]) ∧ 1 * (1 + 1) ≤ (scanning .w1 2 2 0 0).llen) ∧
    (encode (.lit16 32767 [1, 2]) = some (.seg .w2 [0xFF, 0xFF, 1, 2]) ∧ 2 * (1 + 1) ≤ (scanning .w2 4 2 0 0).llen) ∧
    (encode (.lit32 2147483647 [1, 2, 3, 4]) = some (.seg .w4 [0xFF, 0xFF, 0xFF, 0xFF, 1, 2, 3, 4]) ∧
      (scanning .w4 7 2 0 0).llen < 4 * (1 + 1)) := by decide

theorem witness_EmittedBytesStand :
    wellFormed (.emitRun 5 [0x41]) = true ∧ wellFormed (.emitLit 5 2) = true ∧
    after (exec (.emitRun 5 [0x41]) (started .w1 p1)) (fun t => t.phase) = some .scan ∧
    after (exec (.emitLit 5 2) (started .w1 p1)) (fun t => t.phase) = some .scan := by decide

theorem witness_EncoderFrame :
    (wellFormed (.run8 3 0x41) = true ∧ after (exec (.run8 3 0x41) (scanning .w1 2 2 0 0)) (fun t => t.phase) = some .scan) ∧
    (wellFormed (.lit16 32767 [1, 2]) = true ∧
      after (exec (.lit16 32767 [1, 2]) (scanning .w2 4 2 0 0)) (fun t => t.phase) = some .scan) ∧
    (wellFormed (.emitLit 5 2) = true ∧ after (exec (.emitLit 5 2) (started .w1 p1)) (fun t => t.phase) = some .scan) := by
  decide

theorem witness_HdrBuildEffect :
    ((scanning .w1 65535 0 0 0).phase = .scan ∧ (scanning .w1 65535 0 0 0).fw = false ∧
      (scanning .w1 65535 0 0 0).llen ≤ 65535) ∧
    (65535 < (scanning .w2 65536 0 0 0).llen ∧ (scanning .w2 65536 0 0 0).llen < 2 ^ 32) ∧
    ({ scanning .w4 0 0 0 0 with fw := true } : State).fw = true := by decide

/-- The operands and the state of each header form. -/
theorem witness_HeaderFormsComplete :
    (headerInfo (.hdr8Short 65535) = some (.w1, 65535, 4) ∧ wideOf false 65535 = decide (4 = 8)) ∧
    (headerInfo (.hdr16Short 6) = some (.w2, 6, 4) ∧ wideOf false 6 = decide (4 = 8)) ∧
    (headerInfo (.hdr32Short 0) = some (.w4, 0, 4) ∧ wideOf false 0 = decide (4 = 8)) ∧
    (headerInfo (.hdr8Wide 65536) = some (.w1, 65536, 8) ∧ wideOf false 65536 = decide (8 = 8)) ∧
    (headerInfo (.hdr16Wide 6) = some (.w2, 6, 8) ∧ wideOf true 6 = decide (8 = 8)) ∧
    (headerInfo (.hdr32Wide 0) = some (.w4, 0, 8) ∧ wideOf true 0 = decide (8 = 8)) ∧
    encode (.hdr8Short 65535) = some (.hdr [0, 0, 0xFF, 0xFF]) ∧
    ((scanning .w1 65535 0 0 0).phase = .scan ∧ (scanning .w1 65535 0 0 0).wb = .w1 ∧
      (scanning .w1 65535 0 0 0).llen = 65535 ∧ (scanning .w1 65535 0 0 0).fw = false) := by decide

theorem witness_ReservedTypeRejected :
    ((0x06 : Byte).extractLsb' 1 2 : BitVec 2) = 3 ∧ ((0xFF : Byte).extractLsb' 1 2 : BitVec 2) = 3 := by decide

theorem witness_NoOperationWritesIn :
    goesOn (exec .scanRun (started .w1 p1)) = true ∧ goesOn (exec (.start 8 false) (filled p1)) = true := by decide

theorem witness_RegisterWriters :
    goesOn (exec .scanRun (started .w1 p1)) = true ∧ goesOn (exec (.config (.inLen 5)) (filled p1)) = true ∧
    goesOn (exec (.read .ctrl) (filled p1)) = true ∧ goesOn (exec .hdrBuild (started .w1 p1)) = true ∧
    (headerInfo (.hdr8Short 11) ≠ none ∧ goesOn (exec (.hdr8Short 11) (started .w1 p1)) = true) := by decide

theorem witness_ScanFrame :
    (after (exec .scanRun (started .w1 p1)) (fun t => decide (t.err ≠ 2)) = some true ∧
      (started .w1 p1).outCnt ≤ (started .w1 p1).llen) ∧
    after (exec .scanLit { started .w1 p1 with pos := 5 }) (fun t => decide (t.err ≠ 2)) = some true ∧
    after (exec .scanEnd { started .w1 p1 with pos := 11, outCnt := 11 }) (fun t => decide (t.err ≠ 2)) = some true := by
  decide

/-- Two states that differ in IN at LLEN = 2, in OUT, in the trace and on the host's side. -/
theorem witness_StepReadsOnlyInputBelowLlen :
    SameToCore (started .w1 [0x41, 0x41])
      { started .w1 [0x41, 0x41] with
        inMem := [(0, 0x41), (1, 0x41), (2, 0x99)], outMem := [(1, 0x55)], trace := [.lit 0 1], draws := 9
        rdata := 7, hostq := [.reset] } ∧
    (started .w1 [0x41, 0x41]).phase = .scan ∧
    goesOn (exec (selectOp (started .w1 [0x41, 0x41])) (started .w1 [0x41, 0x41])) = true := by
  refine ⟨⟨rfl, fun a ha => ?_⟩, by decide, by decide⟩
  have ha' : a < 2 := ha
  have : a = 0 ∨ a = 1 := by omega
  rcases this with rfl | rfl <;> rfl

/-- The machine right after START on P1 meets the invariant. -/
theorem started_inv : Inv (started .w1 p1) := by
  refine ⟨rfl, ⟨by decide, by decide, by decide⟩, ?_, ?_, by unfold DatapathLegal; decide, fun _ => ⟨?_, ?_, ?_, ?_, ?_⟩,
    by unfold CapLegal; decide, by unfold SyncLegal; decide⟩
  · unfold StatusLegal; decide
  · unfold ResultsLegal; decide
  · decide
  · decide
  · decide
  · decide
  · intro l p h; cases h

/-- The machine at E2's last step, where the final flush does not fit, meets the invariant. -/
theorem failing_inv :
    Inv { started .w1 [0x41, 0x41, 0x42] with
      pos := 3, litStart := 2, litCnt := 1, outCnt := 2, trace := [.run 2 [0x41]] } := by
  refine ⟨rfl, ⟨by decide, by decide, by decide⟩, ?_, ?_, by unfold DatapathLegal; decide, fun _ => ⟨?_, ?_, ?_, ?_, ?_⟩,
    by unfold CapLegal; decide, by unfold SyncLegal; decide⟩
  · unfold StatusLegal; decide
  · unfold ResultsLegal; decide
  · decide
  · decide
  · decide
  · decide
  · intro l p h
    cases h with
    | head => decide
    | tail _ h => cases h

theorem witness_StepKeepsInvariant : Inv (started .w1 p1) ∧ goesOn (step (started .w1 p1)) = true :=
  ⟨started_inv, by decide⟩

theorem witness_OutIsStreamOfTrace :
    Inv (started .w1 p1) ∧ OutHoldsTrace (started .w1 p1) ∧ goesOn (step (started .w1 p1)) = true :=
  ⟨started_inv, fun _ a ha => absurd ha (Nat.not_lt_zero a), by decide⟩

theorem witness_CoreNeverStops : Inv (started .w1 p1) ∧ CoreAlone (started .w1 p1) := ⟨started_inv, rfl, rfl⟩

theorem witness_PosOnlyAdvances :
    Inv (started .w1 p1) ∧ (started .w1 p1).phase = .scan ∧
    goesOn (exec (selectOp (started .w1 p1)) (started .w1 p1)) = true := ⟨started_inv, rfl, by decide⟩

theorem witness_ScanEnds : Inv (started .w1 p1) ∧ CoreAlone (started .w1 p1) ∧ (started .w1 p1).phase = .scan :=
  ⟨started_inv, ⟨rfl, rfl⟩, rfl⟩

theorem witness_TraceFollowsSegments :
    ((filled p1).busy = false ∧ (8 : Byte).toNat = 8 * widthBytes .w1 ∧
      goesOn (exec (.start 8 false) (filled p1)) = true) ∧
    (started .w1 p1).phase = .scan ∧
    after (exec (selectOp (started .w1 p1)) (started .w1 p1)) (fun t => (decide (t.err ≠ 2), t.phase)) =
      some (true, .scan) ∧
    (let s := { started .w1 p1 with pos := 11, outCnt := 11 };
      after (exec (selectOp s) s) (fun t => (decide (t.err ≠ 2), t.phase)) = some (true, .idle)) := by decide

theorem witness_OverflowAtFirstTooLong :
    let s : State := { started .w1 [0x41, 0x41, 0x42] with
      pos := 3, litStart := 2, litCnt := 1, outCnt := 2, trace := [.run 2 [0x41]] }
    Inv s ∧ s.phase = .scan ∧ after (exec (selectOp s) s) (fun t => t.err) = some 2 :=
  ⟨failing_inv, rfl, by decide⟩

theorem witness_MachineComputesCompress :
    (filled p1).busy = false ∧ CoreAlone (filled p1) ∧ goesOn (exec (.start 8 false) (filled p1)) = true ∧
    goesOn (exec (.start 12 false) (filled p1)) = true := ⟨rfl, ⟨rfl, rfl⟩, by decide, by decide⟩

theorem witness_DecodeEncodeAgree :
    wellFormed (.lit8 126 [0x42, 0x43]) = true ∧
    encode (.lit8 126 [0x42, 0x43]) = some (.seg .w1 [0xFE, 0x42, 0x43]) := by decide

theorem witness_DecodedIsWellFormed : decode (.seg .w1 [0xFE, 0x42, 0x43, 0x44]) = .ok (.lit8 126 [0x42, 0x43]) := by
  decide

/-- Both kinds of field at both ends of their ranges, at W = 1. -/
theorem witness_EveryFieldDecodes :
    (beValue [(0x00 : Byte)] < maxLit .w1 ∧ beValue [(0x7F : Byte)] < maxLit .w1) ∧
    (maxLit .w1 ≤ beValue [(0x80 : Byte)] ∧ maxLit .w1 ≤ beValue [(0xFF : Byte)]) ∧
    (widthBytes .w1 ≤ [(0x7F : Byte), 0x41].length ∧ 2 * widthBytes .w1 ≤ [(0x7F : Byte), 0x41].length) ∧
    widthBytes .w1 * (1 + (2 ^ (8 * widthBytes .w1) - 0xFF)) ≤ [(0xFF : Byte), 0x41].length := by decide

/-- The file of P1 with its 11 input bytes (95_test_vectors.md, E6). -/
theorem witness_RoundTrip :
    compressOf p1 8 false =
      .ok ([0x03, 0x41, 0xFE, 0x42, 0x43, 0x02, 0x44], [0x00, 0x00, 0x00, 0x0B]) := by decide +kernel

/-- V-SEG-3: a literal, then a run below the greatest length. -/
theorem witness_SegmentsRunsMaximal :
    segments (unitOf (paddedInput [0x42, 0x41, 0x41, 0x41, 0x41]) .w1) 5 .w1 = [.lit 0 1, .run 4 [0x41]] := by
  decide +kernel

/-- Two literals next to each other: V-SEG-8's first units, cut to one more than the cap (R78). -/
theorem witness_SegmentsRunsMaximal_adjacent :
    segments (fun i => [BitVec.ofNat 8 i]) 129 .w1 = [.lit 0 128, .lit 128 1] := by decide +kernel

/-- A run of 2 units at the start, and one unit of a literal after it (E2). -/
theorem witness_LiteralUnitsDidNotTrigger :
    segments (unitOf (paddedInput [0x41, 0x41, 0x42]) .w1) 3 .w1 = [.run 2 [0x41], .lit 2 1] := by decide +kernel

theorem witness_AllLiteralInputExpands :
    ([0x41, 0x42] : List Byte) ≠ [] ∧
    segments (unitOf (paddedInput [0x41, 0x42]) .w1) (unitCount 2 .w1) .w1 = [.lit 0 2] := by decide +kernel

/-- A START at the cap and one byte above it. -/
theorem witness_StartAboveCapRefused :
    decodeAccess ⟨true, 0x00, 4, 0x801⟩ = .ok (.start 8 false) ∧ (filled p1).slot = none ∧ (filled p1).busy = false ∧
    ({ filled p1 with inputCap := 10 } : State).inputCap < (filled p1).inLen.toNat ∧
    (filled p1).inLen.toNat ≤ ({ filled p1 with inputCap := 11 } : State).inputCap ∧
    goesOn (step (filled p1)) = true := by decide

/-- The last byte an earlier compression wrote, the first above it, and one the host has stored since. -/
theorem witness_StartAndOut :
    let s : State := { filled p1 with done := true, outCnt := 2, outMem := [(0, 0x11), (1, 0x22)], hostOut := [(0, 0x11)] };
    s.busy = false ∧ (8 : Byte).toNat = 8 * widthBytes .w1 ∧ goesOn (exec (.start 8 false) s) = true ∧ s.err = 0 ∧
      (1 < s.outCnt ∧ s.hostOut.read? 1 = none) ∧ s.outCnt ≤ 2 ∧
      (s.hostOut.read? 0 ≠ none ∧ s.outMem.read? 0 ≠ none) := by decide

theorem witness_WideClampsUnreachable : 2 ^ 32 - 1 < 2 ^ 32 ∧ Width.w1 ≠ .w4 ∧ Width.w2 ≠ .w4 := by decide

end Sys2Proof.Tests
end

section
/-! SUPPORT. The register block and the flags: which accesses decode and what a CTRL write does (R18, R23), and who writes
BUSY, DONE, ERR and PHASE (R27). -/

namespace Sys2Proof.Machine

/-! ## Register accesses (R17, R23) -/

/-- The offsets of the register block are the seven of R17. -/
theorem regAt_isSome_iff (off : Nat) :
    (regAt off).isSome = true ↔ off ∈ [0x00, 0x04, 0x08, 0x0C, 0x10, 0x14, 0x18] := by
  simp [regAt, regOffset, List.find?_isSome, eq_comm (b := off)]

/-- R23: an access decodes exactly when it is 32 bits wide and at one of the seven offsets. -/
theorem decodeAccess_ok_iff (a : Access) :
    (∃ i, decodeAccess a = .ok i) ↔ a.size = 4 ∧ a.offset ∈ [0x00, 0x04, 0x08, 0x0C, 0x10, 0x14, 0x18] := by
  rw [← regAt_isSome_iff]
  unfold decodeAccess
  by_cases hsize : a.size = 4 <;> cases regAt a.offset <;> simp [hsize]

/-- The host's access to a register that does not decode is refused, whatever the state. -/
theorem perform_accessTurn_error {a : Access} (h : ¬ ∃ i, decodeAccess a = .ok i) (s : State) :
    perform (accessTurn a s) = .refused .accessHasNoMeaning := by
  unfold accessTurn
  split
  · exact absurd ⟨_, ‹_›⟩ h
  · rfl

/-- Settles O3: an access decodes exactly when it is aligned, 32 bits wide and at a register, and the host's turn refuses
what does not decode. -/
theorem accessesWithoutMeaningRefused : Obligations.AccessesWithoutMeaningRefused := by
  intro s a q hslot hq
  refine ⟨fun hbad => ?_, (decodeAccess_ok_iff a).mpr⟩
  have hnone : ¬ ∃ i, decodeAccess a = .ok i := by
    rw [decodeAccess_ok_iff, not_and_or]; exact hbad
  rw [step_move hslot hq]
  exact perform_accessTurn_error hnone _

/-! ## START and CONFIG (R84, R85, R94) -/

/-- The legal unit widths are 8, 16 and 32 bits (R18, R94). -/
theorem legalWidth_isSome_iff (unitWidth : Byte) :
    (legalWidth unitWidth).isSome = true ↔ unitWidth = 8 ∨ unitWidth = 16 ∨ unitWidth = 32 := by
  unfold legalWidth; split_ifs <;> simp_all

/-- START on a legal width latches (R85). -/
theorem startScan_legal {s : State} {w : Width} (h : legalWidth s.unitWidth = some w) :
    startScan s = latch w (staleOut { clearResults s with trace := [], doneSeen := false }) := by
  simp only [startScan, clearResults_unitWidth, h]

/-- START on an illegal width aborts (R94). -/
theorem startScan_illegal {s : State} (h : legalWidth s.unitWidth = none) :
    startScan s = abort .invalidUnitWidth { clearResults s with trace := [], doneSeen := false } := by
  simp only [startScan, clearResults_unitWidth, h]

/-- START while BUSY = 0 stores its two fields and starts. -/
theorem exec_start_idle {s : State} (unitWidth : Byte) (forceWide : Bool) (hb : s.busy = false) :
    exec (.start unitWidth forceWide) s = .next (startScan (storeCtrl unitWidth forceWide s)) := by
  simp [exec, execStart, hb]

/-- START while BUSY = 1 changes nothing (R109, D6). -/
theorem exec_start_busy {s : State} (unitWidth : Byte) (forceWide : Bool) (hb : s.busy = true) :
    exec (.start unitWidth forceWide) s = .next s := by
  simp [exec, execStart, hb]

/-- CONFIG while BUSY = 1 changes nothing (R84). -/
theorem exec_config_busy {s : State} (c : ConfigWrite) (hb : s.busy = true) : exec (.config c) s = .next s := by
  simp [exec, execConfig, hb]

/-- CONFIG of CTRL while BUSY = 0 stores its two fields (R84). -/
theorem exec_config_ctrl_idle {s : State} (unitWidth : Byte) (forceWide : Bool) (hb : s.busy = false) :
    exec (.config (.ctrl unitWidth forceWide)) s = .next (storeCtrl unitWidth forceWide s) := by
  simp [exec, execConfig, hb]

/-! ## The CTRL register (R18) -/

/-- The UNIT_WIDTH field of a CTRL word, bits 15:8, as a number. -/
theorem extractLsb'_unitWidth_eq_ofNat (v : Word) : v.extractLsb' 8 8 = BitVec.ofNat 8 (v.toNat / 256) := by
  apply BitVec.eq_of_toNat_eq
  simp [BitVec.extractLsb'_toNat, Nat.shiftRight_eq_div_pow]

/-- A 32-bit write to CTRL decodes, to START or to CONFIG by its bit 0. -/
theorem decodeAccess_ctrlWrite (v : Word) : decodeAccess ⟨true, 0x00, 4, v⟩ = .ok (decodeWrite .ctrl v) := rfl

/-- A CTRL write is lost while BUSY; else its two fields are stored, and START follows when bit 0 is 1 (R18, D6). -/
theorem exec_decodeWrite_ctrl (v : Word) (s : State) :
    exec (decodeWrite .ctrl v) s = .next (
      if s.busy then s
      else if v.getLsbD 0 then startScan (storeCtrl (v.extractLsb' 8 8) (v.getLsbD 1) s)
      else storeCtrl (v.extractLsb' 8 8) (v.getLsbD 1) s) := by
  simp only [decodeWrite]
  cases v.getLsbD 0 with
  | false =>
    cases hb : s.busy with
    | false => exact exec_config_ctrl_idle _ _ hb
    | true => exact exec_config_busy _ hb
  | true =>
    cases hb : s.busy with
    | false => exact exec_start_idle _ _ hb
    | true => exact exec_start_busy _ _ hb

/-- A word made of two fields is worth its upper field, shifted, and its lower one. -/
theorem toNat_append_eq_mul_add {m n : Nat} (x : BitVec m) (y : BitVec n) :
    (x ++ y).toNat = x.toNat * 2 ^ n + y.toNat := by
  rw [BitVec.toNat_append, Nat.shiftLeft_eq, Nat.mul_comm, Nat.two_pow_add_eq_or_of_lt y.isLt]

/-- The value of a CTRL word without START: UNIT_WIDTH in 15:8, FORCE_WIDE in bit 1, every other bit 0. -/
theorem ctrlWord_toNat (unitWidth : Byte) (forceWide : Bool) :
    (ctrlWord unitWidth forceWide false).toNat = unitWidth.toNat * 256 + (if forceWide then 2 else 0) := by
  simp only [ctrlWord, toNat_append_eq_mul_add]
  cases forceWide <;> simp <;> omega

/-- Settles O4: the write by the case of BUSY and bit 0, the read by the value of the word. -/
theorem ctrlFields : Obligations.CtrlFields := by
  intro s v
  refine ⟨⟨_, decodeAccess_ctrlWrite v, ?_⟩, ctrlWord_toNat s.unitWidth s.forceWide⟩
  rw [exec_decodeWrite_ctrl, extractLsb'_unitWidth_eq_ofNat]
  rfl

/-! ## The flags and PHASE (R27) -/

/-- The three flags and PHASE are as before. -/
def FlagsKept (s t : State) : Prop :=
  t.phase = s.phase ∧ t.busy = s.busy ∧ t.done = s.done ∧ t.err = s.err

/-- The flags and PHASE as the end of a compression leaves them (R20): idle, DONE = 1 and the given error code. -/
def EndedWith (e : BitVec 4) (t : State) : Prop :=
  t.phase = .idle ∧ t.busy = false ∧ t.done = true ∧ t.err = e

theorem FlagsKept.refl (s : State) : FlagsKept s s := ⟨rfl, rfl, rfl, rfl⟩

theorem FlagsKept.trans {s t u : State} (hst : FlagsKept s t) (htu : FlagsKept t u) : FlagsKept s u := by
  obtain ⟨hp, hb, hd, he⟩ := hst
  obtain ⟨hp', hb', hd', he'⟩ := htu
  exact ⟨hp'.trans hp, hb'.trans hb, hd'.trans hd, he'.trans he⟩

/-- The Header Builder writes no flag. -/
theorem buildHeader_flagsKept (s : State) : FlagsKept s (buildHeader s) := by simp [FlagsKept]

/-- R97: an abort ends the compression with the code of its error. -/
theorem abort_endedWith (e : ErrKind) (s : State) : EndedWith (errCode e) (abort e s) := ⟨rfl, rfl, rfl, rfl⟩

/-- A segment that is written leaves the flags. -/
theorem emitSegment_ok_flagsKept {seg : Segment} {size : Nat} {bytes : List Byte} {s t : State}
    (h : emitSegment seg size bytes s = .ok t) : FlagsKept s t := by
  obtain ⟨-, rfl⟩ := emitSegment_ok h
  exact ⟨rfl, rfl, rfl, rfl⟩

/-- R97: a segment that does not fit ends the compression with ERR = 2. -/
theorem emitSegment_raised_endedWith {seg : Segment} {size : Nat} {bytes : List Byte} {s t : State}
    (h : emitSegment seg size bytes s = .raised t) : EndedWith 2 t := by
  obtain ⟨-, rfl⟩ := emitSegment_raised h
  exact abort_endedWith .expansionOverflow _

/-- An emit as an operation of its own leaves the flags or aborts. -/
theorem emitSegment_outcome_flags {seg : Segment} {size : Nat} {bytes : List Byte} {s t : State}
    (h : (emitSegment seg size bytes s).outcome = .next t) : FlagsKept s t ∨ EndedWith 2 t := by
  cases hr : emitSegment seg size bytes s with
  | ok s1 => rw [hr] at h; cases h; exact .inl (emitSegment_ok_flagsKept hr)
  | raised s1 => rw [hr] at h; cases h; exact .inr (emitSegment_raised_endedWith hr)

/-- A flush that ends well leaves the flags. -/
theorem flushLit_ok_flagsKept {s t : State} (h : flushLit s = .ok t) : FlagsKept s t := by
  obtain ⟨-, hframe⟩ := flushLit_frame h
  rw [hframe]; exact ⟨rfl, rfl, rfl, rfl⟩

/-- A flush that raises ends the compression with ERR = 2. -/
theorem flushLit_raised_endedWith {s t : State} (h : flushLit s = .raised t) : EndedWith 2 t :=
  emitSegment_raised_endedWith (flushLit_raised h).2

/-- SCAN_RUN leaves the flags or aborts. -/
theorem scanRun_flags (s : State) : FlagsKept s (scanRun s) ∨ EndedWith 2 (scanRun s) := by
  rcases scanRun_cases s with ⟨t, hf, heq⟩ | ⟨s1, t, -, hr, heq⟩ | ⟨s1, s2, hf, hr, heq⟩ <;> rw [heq]
  · exact .inr (flushLit_raised_endedWith hf)
  · exact .inr (emitSegment_raised_endedWith hr)
  · have hrun : FlagsKept s1 s2 := emitSegment_ok_flagsKept hr
    exact .inl ((flushLit_ok_flagsKept hf).trans hrun)

/-- SCAN_LIT leaves the flags or aborts. -/
theorem scanLit_flags (s : State) : FlagsKept s (scanLit s) ∨ EndedWith 2 (scanLit s) := by
  rcases scanLit_cases s with ⟨-, heq⟩ | ⟨-, t, hl, heq⟩ | ⟨-, t, hl, heq⟩ <;> rw [heq]
  · exact .inl ⟨rfl, rfl, rfl, rfl⟩
  · have hlit : FlagsKept (takeUnit s) t := emitSegment_ok_flagsKept hl
    exact .inl hlit
  · exact .inr (emitSegment_raised_endedWith hl)

/-- SCAN_END ends the compression, by an abort or with success. -/
theorem scanEnd_flags (s : State) : EndedWith 2 (scanEnd s) ∨ EndedWith 0 (scanEnd s) := by
  rcases scanEnd_cases s with ⟨t, hf, heq⟩ | ⟨s1, -, heq⟩ <;> rw [heq]
  · exact .inl (flushLit_raised_endedWith hf)
  · exact .inr ⟨rfl, rfl, rfl, rfl⟩

/-- What R27 allows an operation other than an accepted START to do: leave the flags and PHASE, or end the compression in
progress, by an abort or, for SCAN_END only, with success. -/
def FlagsKeptOrEnded (i : Instr) (s t : State) : Prop :=
  FlagsKept s t ∨ s.phase = .scan ∧ (EndedWith 2 t ∨ i = .scanEnd ∧ EndedWith 0 t)

/-- An operation of a compression in progress that leaves the flags or aborts is allowed by R27. -/
theorem FlagsKeptOrEnded.of_scan {i : Instr} {s t : State} (hp : s.phase = .scan)
    (h : FlagsKept s t ∨ EndedWith 2 t) : FlagsKeptOrEnded i s t :=
  h.imp_right fun hend => ⟨hp, .inl hend⟩

/-- The six segment forms. -/
theorem emitForm_flags {i : Instr} {w : Width} {seg : Segment} {size : Nat} {bytes : List Byte} {s t : State}
    (h : emitForm w seg size bytes s = .next t) : FlagsKeptOrEnded i s t := by
  unfold emitForm at h
  split at h
  next hsel => exact .of_scan hsel.1 (emitSegment_outcome_flags h)
  next => cases h

/-- The six header forms load the header registers where they are selected, and write no flag. -/
theorem loadHeader_flags {i : Instr} {selected : Bool} {len w0 w1 : Word} {s t : State}
    (h : (if selected then Host.Outcome.next (loadHeader len w0 w1 s) else Host.Outcome.refused Refusal.notSelected :
      Host.Outcome State Fault Refusal) = .next t) : FlagsKeptOrEnded i s t := by
  split at h <;> cases h
  exact .inl ⟨rfl, rfl, rfl, rfl⟩

theorem execHdrBuild_flags {s t : State} (h : execHdrBuild s = .next t) : FlagsKeptOrEnded .hdrBuild s t := by
  unfold execHdrBuild at h
  split at h <;> cases h
  exact .inl (buildHeader_flagsKept s)

theorem execScanRun_flags {s t : State} (h : execScanRun s = .next t) : FlagsKeptOrEnded .scanRun s t := by
  unfold execScanRun at h
  split at h
  next hsel => cases h; exact .of_scan hsel.1 (scanRun_flags s)
  next => cases h

theorem execScanLit_flags {s t : State} (h : execScanLit s = .next t) : FlagsKeptOrEnded .scanLit s t := by
  unfold execScanLit at h
  split at h
  next hsel => cases h; exact .of_scan hsel.1 (scanLit_flags s)
  next => cases h

theorem execScanEnd_flags {s t : State} (h : execScanEnd s = .next t) : FlagsKeptOrEnded .scanEnd s t := by
  unfold execScanEnd at h
  split at h
  next hsel => cases h; exact .inr ⟨hsel.1, (scanEnd_flags s).imp_right fun hend => ⟨rfl, hend⟩⟩
  next => cases h

theorem execEmitRun_flags {l : Nat} {p : List Byte} {s t : State} (h : execEmitRun l p s = .next t) :
    FlagsKeptOrEnded (.emitRun l p) s t := by
  unfold execEmitRun at h
  split_ifs at h with hp
  exact .of_scan (not_not.mp hp) (emitSegment_outcome_flags h)

theorem execEmitLit_flags {start k : Nat} {s t : State} (h : execEmitLit start k s = .next t) :
    FlagsKeptOrEnded (.emitLit start k) s t := by
  unfold execEmitLit at h
  split_ifs at h with hp
  exact .of_scan (not_not.mp hp) (emitSegment_outcome_flags h)

/-- CONFIG stores host fields or nothing; it writes no flag. -/
theorem execConfig_flagsKept {c : ConfigWrite} {s t : State} (h : execConfig c s = .next t) : FlagsKept s t := by
  unfold execConfig at h
  split at h
  · cases h; exact .refl s
  · cases c <;> cases h <;> exact ⟨rfl, rfl, rfl, rfl⟩

/-! ## An accepted START, and every other operation -/

/-- START on a legal width sets BUSY and clears DONE and ERR. -/
theorem startScan_flags_legal {s : State} (h : s.unitWidth = 8 ∨ s.unitWidth = 16 ∨ s.unitWidth = 32) :
    (startScan s).busy = true ∧ (startScan s).done = false ∧ (startScan s).err = 0 := by
  obtain ⟨w, hw⟩ := Option.isSome_iff_exists.mp ((legalWidth_isSome_iff _).mpr h)
  rw [startScan_legal hw]
  exact ⟨rfl, rfl, rfl⟩

/-- START on an illegal width ends at once with ERR = 1. -/
theorem startScan_endedWith_illegal {s : State} (h : ¬ (s.unitWidth = 8 ∨ s.unitWidth = 16 ∨ s.unitWidth = 32)) :
    EndedWith 1 (startScan s) := by
  rw [← legalWidth_isSome_iff, Option.not_isSome_iff_eq_none] at h
  rw [startScan_illegal h]
  exact abort_endedWith .invalidUnitWidth _

/-- R27 over the operations: all but an accepted START leave the flags, or end the compression in progress. -/
theorem exec_flags {i : Instr} {s t : State} (h : exec i s = .next t)
    (hlost : ∀ uw fw, i = .start uw fw → s.busy = true) : FlagsKeptOrEnded i s t := by
  cases i with
  | run8 | lit8 | run16 | lit16 | run32 | lit32 => exact emitForm_flags h
  | hdr8Short | hdr16Short | hdr32Short | hdr8Wide | hdr16Wide | hdr32Wide => exact loadHeader_flags h
  | hdrReserved => cases h
  | start uw fw => rw [exec_start_busy uw fw (hlost uw fw rfl)] at h; cases h; exact .inl (.refl s)
  | config => exact .inl (execConfig_flagsKept h)
  | read => cases h; exact .inl ⟨rfl, rfl, rfl, rfl⟩
  | scanRun => exact execScanRun_flags h
  | scanLit => exact execScanLit_flags h
  | scanEnd => exact execScanEnd_flags h
  | emitRun => exact execEmitRun_flags h
  | emitLit => exact execEmitLit_flags h
  | hdrBuild => exact execHdrBuild_flags h

/-- Settles O9: an accepted START by the legality of its width, every other operation by `exec_flags`. -/
theorem flagsWritten : Obligations.FlagsWritten := by
  intro i s t h
  refine ⟨?_, fun hlost => ?_⟩
  · rintro uw fw rfl hb
    rw [exec_start_idle uw fw hb] at h
    cases h
    refine ⟨fun hw => startScan_flags_legal hw, fun ⟨h8, h16, h32⟩ => ?_⟩
    have hbad : ¬ (uw = 8 ∨ uw = 16 ∨ uw = 32) := not_or.mpr ⟨h8, not_or.mpr ⟨h16, h32⟩⟩
    exact (startScan_endedWith_illegal (s := storeCtrl uw fw s) hbad).2
  · rcases exec_flags h hlost with hkept | ⟨hp, ⟨hi, hb, hd, he⟩ | ⟨hop, hi, hb, hd, he⟩⟩
    · exact .inl hkept
    · exact .inr ⟨hp, hi, hb, hd, .inl he⟩
    · exact .inr ⟨hp, hi, hb, hd, .inr ⟨hop, he⟩⟩

end Sys2Proof.Machine
end

section
/-! SUPPORT. The padded input and its last unit (R34): a byte below and above LLEN, how a stretch of bytes splits, and how
many units stand before a partial one. -/

namespace Sys2Proof.Machine

/-! ## Bytes of the padded input (R34) -/

/-- A byte below LLEN is the host's. -/
theorem inp_of_lt {s : State} {x : Nat} (h : x < s.llen) : inp s x = memIn s x := if_pos h

/-- A byte at or above LLEN is made by the core and is 0x00. -/
theorem inp_of_le {s : State} {x : Nat} (h : s.llen ≤ x) : inp s x = 0 := if_neg (Nat.not_lt.mpr h)

/-- A stretch below LLEN consists of the host's bytes. -/
theorem bytesFrom_inp_of_le {s : State} {a n : Nat} (h : a + n ≤ s.llen) :
    bytesFrom (inp s) a n = bytesFrom (memIn s) a n :=
  List.map_congr_left fun _ hj => inp_of_lt (by have := List.mem_range.mp hj; omega)

/-- A stretch from LLEN on is all zeros. -/
theorem bytesFrom_inp_of_llen_le {s : State} {a : Nat} (n : Nat) (h : s.llen ≤ a) :
    bytesFrom (inp s) a n = List.replicate n 0 :=
  List.eq_replicate_iff.mpr ⟨bytesFrom_length _ _ _, List.forall_mem_map.mpr fun _ _ => inp_of_le (by omega)⟩

/-! ## Stretches of bytes and the partial last unit (R8, R34, R35) -/

/-- A stretch of bytes splits at any place. -/
theorem bytesFrom_add (f : Nat → Byte) (a m n : Nat) :
    bytesFrom f a (m + n) = bytesFrom f a m ++ bytesFrom f (a + m) n := by
  simp [bytesFrom, List.range_add, Nat.add_assoc]

/-- R8: a partial last unit is one unit more than the whole ones. -/
theorem unitCount_of_mod_ne_zero {len : Nat} {w : Width} (h : len % widthBytes w ≠ 0) :
    unitCount len w = len / widthBytes w + 1 := by
  have hr : len % widthBytes w < widthBytes w := Nat.mod_lt _ (widthBytes_pos w)
  have hlen : widthBytes w * (len / widthBytes w) + len % widthBytes w = len := Nat.div_add_mod _ _
  apply Nat.div_eq_of_lt_le <;> simp only [Nat.add_mul, Nat.mul_comm (len / widthBytes w)] <;> omega

/-- A partial last unit is what remains of the host's bytes, and zeros up to the unit width. -/
theorem unit_partial (s : State) :
    unit s (s.llen / widthBytes s.wb) =
      bytesFrom (memIn s) (s.llen / widthBytes s.wb * widthBytes s.wb) (s.llen % widthBytes s.wb) ++
        List.replicate (widthBytes s.wb - s.llen % widthBytes s.wb) 0 := by
  have hr : s.llen % widthBytes s.wb ≤ widthBytes s.wb := (Nat.mod_lt _ (widthBytes_pos s.wb)).le
  have hend : s.llen / widthBytes s.wb * widthBytes s.wb + s.llen % widthBytes s.wb = s.llen := Nat.div_add_mod' _ _
  calc unit s (s.llen / widthBytes s.wb)
      = bytesFrom (inp s) (s.llen / widthBytes s.wb * widthBytes s.wb)
          (s.llen % widthBytes s.wb + (widthBytes s.wb - s.llen % widthBytes s.wb)) := by
        rw [Nat.add_sub_cancel' hr]; rfl
    _ = _ := by rw [bytesFrom_add, bytesFrom_inp_of_le hend.le, bytesFrom_inp_of_llen_le _ hend.ge]

/-- Settles O15: a byte by its side of LLEN, the last unit split where the host's bytes end.
(The name `paddedInput` is the oracle's definition.) -/
theorem paddedInput_holds : Obligations.PaddedInput := by
  intro s
  refine ⟨fun _ => inp_of_lt, fun _ => inp_of_le, fun hpartial => ?_⟩
  rw [unitCount_of_mod_ne_zero hpartial, Nat.add_sub_cancel]
  exact unit_partial s

end Sys2Proof.Machine
end

section
/-! SUPPORT. The header encodings (R51 to R55): the header forms as bytes, what HDR_BUILD leaves for the host, and what the
header decoder and the reference decode look at. -/

namespace Sys2Proof.Machine

/-! ## Headers as bytes (R13, R51 to R54) -/

/-- The bytes of a 16-bit word are its big-endian form. -/
theorem bytes16_eq_be (v : BitVec 16) : bytes16 v = be v.toNat 2 := rfl

/-- The bytes of a 32-bit word are its big-endian form. -/
theorem bytes32_eq_be (v : BitVec 32) : bytes32 v = be v.toNat 4 := rfl

/-- R51: word0 = TYPE*2^9 + WIDE*2^3. -/
theorem hdrWord0_toNat (type : BitVec 2) (wide : Bool) :
    (hdrWord0 type wide).toNat = type.toNat * 2 ^ 9 + wide.toNat * 2 ^ 3 := by
  simp only [hdrWord0, toNat_append_eq_mul_add, BitVec.ofNat_eq_ofNat, BitVec.toNat_zero, BitVec.toNat_ofBool]
  omega

/-- R53: the 4-byte header. -/
theorem shortHeader_eq_be (type : BitVec 2) (size : BitVec 16) :
    shortHeader type size = be (type.toNat * 2 ^ 9) 2 ++ be size.toNat 2 := by
  rw [shortHeader, bytes16_eq_be, bytes16_eq_be, hdrWord0_toNat, Bool.toNat_false, Nat.zero_mul, Nat.add_zero]

/-- R54: the 8-byte header. -/
theorem wideHeader_eq_be (type : BitVec 2) (size : BitVec 32) :
    wideHeader type size = be (type.toNat * 2 ^ 9 + 2 ^ 3) 2 ++ [0x00, 0x00] ++ be size.toNat 4 := by
  rw [wideHeader, bytes16_eq_be, bytes32_eq_be, hdrWord0_toNat, Bool.toNat_true, Nat.one_mul]

/-- Settles O31: each form is the 4-byte or the 8-byte header of its TYPE. -/
theorem headerFormBytes : Obligations.HeaderFormBytes := by
  have hshort (type : BitVec 2) (size : BitVec 16) := congrArg (some ∘ Code.hdr) (shortHeader_eq_be type size)
  have hwide (type : BitVec 2) (size : BitVec 32) := congrArg (some ∘ Code.hdr) (wideHeader_eq_be type size)
  exact ⟨fun size => ⟨hshort 0 size, hshort 1 size, hshort 2 size⟩,
    fun size => ⟨hwide 0 size, hwide 1 size, hwide 2 size⟩⟩

/-! ## The header the host gets (R22, R81) -/

/-- A word of two 16-bit halves, as HDR_W0 is, has the bytes of its halves. -/
theorem bytes32_append (x y : BitVec 16) : bytes32 (x ++ y) = bytes16 x ++ bytes16 y := by
  have hhi (k : Nat) (h : 16 ≤ k) : (x ++ y).extractLsb' k 8 = x.extractLsb' (k - 16) 8 :=
    BitVec.extractLsb'_append_eq_of_le h
  have hlo (k : Nat) (h : k + 8 ≤ 16) : (x ++ y).extractLsb' k 8 = y.extractLsb' k 8 :=
    BitVec.extractLsb'_append_eq_of_add_le h
  simp [bytes32, bytes16, hhi, hlo]

/-- The 16-bit size form leaves the 4-byte header. -/
theorem headerOf_loadShort (type : BitVec 2) (size : BitVec 16) (s : State) :
    headerOf (loadShort type size s) = shortHeader type size := by
  simp [headerOf, shortHeader, bytes32_append]

/-- The 32-bit size form leaves the 8-byte header. -/
theorem headerOf_loadWide (type : BitVec 2) (size : BitVec 32) (s : State) :
    headerOf (loadWide type size s) = wideHeader type size := by
  have hpad : bytes16 0#16 = [0#8, 0#8] := by decide
  simp [headerOf, wideHeader, bytes32_append, hpad]

/-- HDR_BUILD leaves the header of R53 and R54. -/
theorem headerOf_buildHeader (s : State) : headerOf (buildHeader s) = headerBytes s.wb s.fw s.llen := by
  unfold buildHeader headerBytes
  split
  · exact headerOf_loadWide _ _ s
  · exact headerOf_loadShort _ _ s

/-- HDR_BUILD has no other next state than the header built. -/
theorem exec_hdrBuild_next {s t : State} (h : exec .hdrBuild s = .next t) : t = buildHeader s := by
  change execHdrBuild s = .next t at h
  unfold execHdrBuild at h
  split at h <;> cases h
  rfl

/-- A header as R55 has the core produce it: TYPE is not 11, and the unassigned bits of word0 and the padding are 0. -/
def CanonicalHeader (bytes : List Byte) : Prop :=
  ∃ (b0 b1 : Byte) (rest : List Byte), bytes = b0 :: b1 :: rest ∧ b0 ≠ 0x06 ∧ b0 &&& 0x06 = b0 ∧
    b1 &&& 0x08 = b1 ∧ (b1 = 0x08 → rest.take 2 = [0x00, 0x00])

/-- The bytes of word0 for each TYPE that R52 gives a width. -/
theorem bytes16_hdrWord0_typeOf (w : Width) (wide : Bool) :
    ∃ b0 : Byte, bytes16 (hdrWord0 (typeOf w) wide) = [b0, if wide then 0x08 else 0x00] ∧
      b0 ≠ 0x06 ∧ b0 &&& 0x06 = b0 := by
  cases w <;> cases wide <;> exact ⟨_, rfl, by decide, by decide⟩

/-- R55: both forms of the header that R80 chooses from are canonical. -/
theorem headerBytes_canonical (w : Width) (forceWide : Bool) (len : Nat) :
    CanonicalHeader (headerBytes w forceWide len) := by
  unfold headerBytes
  split
  · obtain ⟨b0, hword0, hne, hmask⟩ := bytes16_hdrWord0_typeOf w true
    exact ⟨b0, 0x08, _, by rw [wideHeader, hword0]; rfl, hne, hmask, by decide, fun _ => rfl⟩
  · obtain ⟨b0, hword0, hne, hmask⟩ := bytes16_hdrWord0_typeOf w false
    exact ⟨b0, 0x00, _, by rw [shortHeader, hword0]; rfl, hne, hmask, by decide, fun h => absurd h (by decide)⟩

/-! ## What the header decoder looks at (R51, R55) -/

/-- TYPE stands in bits 2:1 of the first byte. -/
theorem word0_type (b0 b1 : Byte) : (b0 ++ b1 : BitVec 16).extractLsb' 9 2 = b0.extractLsb' 1 2 :=
  BitVec.extractLsb'_append_eq_of_le (by decide)

/-- WIDE stands in bit 3 of the second byte. -/
theorem word0_wide (b0 b1 : Byte) : (b0 ++ b1 : BitVec 16).getLsbD 3 = b1.getLsbD 3 := by
  rw [BitVec.getLsbD_append, if_pos (by decide)]

/-- The mask 0x06 keeps TYPE. -/
theorem type_mask (b0 : Byte) : (b0 &&& 0x06).extractLsb' 1 2 = b0.extractLsb' 1 2 := by
  have hmask : (0x06 : Byte).extractLsb' 1 2 = BitVec.allOnes 2 := by decide
  rw [BitVec.extractLsb'_and, hmask, BitVec.and_allOnes]

/-- The mask 0x08 keeps WIDE. -/
theorem wide_mask (b1 : Byte) : (b1 &&& 0x08).getLsbD 3 = b1.getLsbD 3 := by
  rw [BitVec.getLsbD_and, show (0x08 : Byte).getLsbD 3 = true by decide, Bool.and_true]

/-- R55: TYPE = 11 is kept apart, whatever the other bits are. -/
theorem decodeHdr_reserved {n : Nat} {f : Nat → Byte} (hn : 2 ≤ n) (htype : (f 0).extractLsb' 1 2 = 3) :
    ∃ hi lo, decodeHdr n f = .ok (.hdrReserved hi lo) := by
  simp [decodeHdr, Nat.not_lt.mpr hn, word0_type, htype]

/-- Where TYPE is not 11 the decoder looks at TYPE, at WIDE and at the size field of the form WIDE gives. -/
theorem decodeHdr_congr (n : Nat) {f g : Nat → Byte} (hres : (f 0).extractLsb' 1 2 ≠ 3)
    (htype : (f 0).extractLsb' 1 2 = (g 0).extractLsb' 1 2) (hwide : (f 1).getLsbD 3 = (g 1).getLsbD 3)
    (hshort : (f 1).getLsbD 3 = false → f 2 = g 2 ∧ f 3 = g 3) (hsize : ∀ i, 4 ≤ i → f i = g i) :
    decodeHdr n f = decodeHdr n g := by
  have hres' : ((g 0).extractLsb' 1 2).toNat ≠ 3 := fun h => hres (htype.trans (BitVec.eq_of_toNat_eq h))
  simp only [decodeHdr, word0_type, word0_wide, htype, hwide, hres', hsize 4 (by decide), hsize 5 (by decide),
    hsize 6 (by decide), hsize 7 (by decide)]
  cases hw : (g 1).getLsbD 3 with
  | true => simp
  | false =>
    obtain ⟨h2, h3⟩ := hshort (hwide.trans hw)
    rw [h2, h3]
    simp

/-! ## What the reference decode looks at (R55, R58) -/

/-- A header is of 4 bytes at least. -/
theorem four_le_of_headerInfo {i : Instr} {w : Width} {size p : Nat} (h : headerInfo i = some (w, size, p)) : 4 ≤ p := by
  cases i <;> cases h <;> decide

/-- A file whose header has TYPE = 11 is rejected. -/
theorem refDecode_reserved {b0 : Byte} (b1 : Byte) (rest : List Byte) (htype : b0.extractLsb' 1 2 = (3 : BitVec 2)) :
    refDecode (b0 :: b1 :: rest) = none := by
  obtain ⟨hi, lo, hdec⟩ := decodeHdr_reserved (n := (b0 :: b1 :: rest).length)
    (f := fun i => (b0 :: b1 :: rest).getD i 0) (by simp) htype
  simp only [refDecode, hdec, headerInfo]

/-- Two files of one length that the header decoder reads alike, and that agree from byte 4 on, decode alike. -/
theorem refDecode_congr {file file' : List Byte} (hlen : file.length = file'.length)
    (hdec : decodeHdr file'.length (fun i => file.getD i 0) = decodeHdr file'.length fun i => file'.getD i 0)
    (htail : file.drop 4 = file'.drop 4) : refDecode file = refDecode file' := by
  have hdrop {i w size p} (h : headerInfo i = some (w, size, p)) : file.drop p = file'.drop p := by
    rw [← Nat.add_sub_cancel' (four_le_of_headerInfo h), ← List.drop_drop, htail, List.drop_drop]
  unfold refDecode
  rw [hlen, hdec]
  split
  next => rfl
  next i _ =>
    cases hinfo : headerInfo i with
    | none => rfl
    | some info =>
      obtain ⟨w, size, p⟩ := info
      simp only [hdrop hinfo]

/-- Of the first four bytes of a file the reference decode looks at TYPE, at WIDE and, in the 16-bit size form, at the size
field. -/
theorem refDecode_front_congr {b0 b1 b2 b3 c0 c1 c2 c3 : Byte} (rest : List Byte)
    (htype : b0.extractLsb' 1 2 = c0.extractLsb' 1 2) (hwide : b1.getLsbD 3 = c1.getLsbD 3)
    (hshort : b1.getLsbD 3 = false → b2 = c2 ∧ b3 = c3) :
    refDecode (b0 :: b1 :: b2 :: b3 :: rest) = refDecode (c0 :: c1 :: c2 :: c3 :: rest) := by
  by_cases hres : b0.extractLsb' 1 2 = 3
  · rw [refDecode_reserved _ _ hres, refDecode_reserved _ _ (htype.symm.trans hres)]
  · refine refDecode_congr rfl (decodeHdr_congr _ hres htype hwide hshort fun i hi => ?_) rfl
    obtain ⟨k, rfl⟩ := Nat.exists_eq_add_of_le' hi
    rfl

/-- Settles O33: the refusal by definition, TYPE = 11 by `decodeHdr_reserved` and `refDecode_reserved`, the ignored bits by
`refDecode_front_congr`, and HDR_BUILD by `headerBytes_canonical`. -/
theorem reservedTypeRejected : Obligations.ReservedTypeRejected := by
  refine ⟨fun s hi lo => rfl, fun b0 b1 rest htype => ⟨?_, refDecode_reserved b1 rest htype⟩,
    fun b0 b1 b2 b3 rest => ?_, fun s t h => ?_⟩
  · exact decodeHdr_reserved (f := fun i => (b0 :: b1 :: rest).getD i 0) (by simp) htype
  · split
    next hw =>
      refine refDecode_front_congr rest (type_mask b0).symm (wide_mask b1).symm fun hw' => ?_
      exact absurd (hw.symm.trans hw') (by decide)
    next => exact refDecode_front_congr rest (type_mask b0).symm (wide_mask b1).symm fun _ => ⟨rfl, rfl⟩
  · rw [exec_hdrBuild_next h, headerOf_buildHeader]
    exact headerBytes_canonical s.wb s.fw s.llen

end Sys2Proof.Machine
end

section
/-! SUPPORT. The Segmenter: its threshold, trigger and run length (R60 to R62), and what each of its three decisions leaves,
by whether the segments it writes fit (R63 to R65, R67). -/

namespace Sys2Proof.Machine

/-! ## Threshold and trigger (R60, R61) -/

/-- R60: two units are enough for a run of bytes with no literal pending. -/
theorem thresholdOf_eq_two {w : Width} {litCnt : Nat} (h : w = .w1 ∧ litCnt = 0) : thresholdOf w litCnt = 2 := if_pos h

/-- R60: else a run needs three units. -/
theorem thresholdOf_eq_three {w : Width} {litCnt : Nat} (h : ¬ (w = .w1 ∧ litCnt = 0)) : thresholdOf w litCnt = 3 :=
  if_neg h

/-- Settles O12: the two branches of the threshold. -/
theorem triggerThreshold : Obligations.TriggerThreshold :=
  fun _ => ⟨thresholdOf_eq_two, thresholdOf_eq_three⟩

/-- Every width's longest run is longer than the threshold. -/
theorem thresholdOf_le_maxRun (w : Width) (litCnt : Nat) : thresholdOf w litCnt ≤ maxRun w := by
  have hmax : 3 ≤ maxRun w := by cases w <;> decide
  unfold thresholdOf
  split <;> omega

/-- R61 for any unit function; the model's loop counts the units after the first from 0. -/
theorem triggerOf_iff (u : Nat → List Byte) (w : Width) (nu pos litCnt : Nat) :
    triggerOf u w nu pos litCnt = true ↔
      pos + thresholdOf w litCnt ≤ nu ∧ ∀ k, 1 ≤ k → k < thresholdOf w litCnt → u (pos + k) = u pos := by
  simp only [triggerOf, Bool.and_eq_true, decide_eq_true_eq, List.all_eq_true, List.mem_range]
  refine and_congr_right fun _ => ⟨fun h k hk hlt => ?_, fun h k hk => h (k + 1) (by omega) (by omega)⟩
  obtain ⟨j, rfl⟩ := Nat.exists_eq_add_of_le' hk
  exact h j (by omega)

/-- Settles O13: the state's trigger is the trigger of its units. -/
theorem triggerMeaning : Obligations.TriggerMeaning :=
  fun s => triggerOf_iff (unit s) s.wb s.nu s.pos s.litCnt

/-! ## The run length (R62) -/

/-- What R62 asks of a length besides T <= L: it is at most MAX_RUN, the l units at pos exist, and all equal the first. -/
def IsRun (u : Nat → List Byte) (w : Width) (nu pos l : Nat) : Prop :=
  l ≤ maxRun w ∧ pos + l ≤ nu ∧ ∀ k, k < l → u (pos + k) = u pos

section
variable {u : Nat → List Byte} {w : Width} {nu pos : Nat}

/-- A run grows by one unit exactly where the loop of R62 turns once more. -/
theorem IsRun.succ_iff {l : Nat} (h : IsRun u w nu pos l) :
    IsRun u w nu pos (l + 1) ↔ pos + l < nu ∧ l < maxRun w ∧ u (pos + l) = u pos := by
  obtain ⟨-, -, heq⟩ := h
  refine ⟨fun ⟨hmax, hnu, heq'⟩ => ⟨by omega, by omega, heq' l (by omega)⟩,
    fun ⟨hnu, hmax, hl⟩ => ⟨by omega, by omega, ?_⟩⟩
  intro k hk
  rcases Nat.lt_succ_iff_lt_or_eq.mp hk with hlt | rfl
  · exact heq k hlt
  · exact hl

/-- The first units of a run are a run. -/
theorem IsRun.of_le {l m : Nat} (h : IsRun u w nu pos m) (hle : l ≤ m) : IsRun u w nu pos l := by
  obtain ⟨hmax, hnu, heq⟩ := h
  exact ⟨by omega, by omega, fun k hk => heq k (by omega)⟩

/-- A trigger finds a run of T units. -/
theorem isRun_threshold {litCnt : Nat} (h : triggerOf u w nu pos litCnt = true) :
    IsRun u w nu pos (thresholdOf w litCnt) := by
  obtain ⟨hnu, heq⟩ := (triggerOf_iff u w nu pos litCnt).mp h
  refine ⟨thresholdOf_le_maxRun w litCnt, hnu, fun k hk => ?_⟩
  cases k with
  | zero => rfl
  | succ k => exact heq (k + 1) (by omega) hk

/-- The loop only lengthens. -/
theorem le_extendRun (fuel l : Nat) : l ≤ extendRun u w nu pos fuel l := by
  induction fuel generalizing l with
  | zero => exact Nat.le_refl l
  | succ fuel ih =>
    unfold extendRun
    split
    · exact Nat.le_of_succ_le (ih (l + 1))
    · exact Nat.le_refl l

/-- The loop turns a run into a run. -/
theorem isRun_extendRun (fuel : Nat) {l : Nat} (h : IsRun u w nu pos l) :
    IsRun u w nu pos (extendRun u w nu pos fuel l) := by
  induction fuel generalizing l with
  | zero => exact h
  | succ fuel ih =>
    unfold extendRun
    split
    · exact ih (h.succ_iff.mpr ‹_›)
    · exact h

/-- The loop reaches every longer run that its turns suffice for: it stops early only where no longer run exists. -/
theorem le_extendRun_of_isRun {fuel l m : Nat} (h : IsRun u w nu pos l) (hm : IsRun u w nu pos m) (hfuel : m ≤ l + fuel) :
    m ≤ extendRun u w nu pos fuel l := by
  induction fuel generalizing l with
  | zero => exact hfuel
  | succ fuel ih =>
    unfold extendRun
    split
    · exact ih (h.succ_iff.mpr ‹_›) (by omega)
    · by_contra hlt
      have hsucc : IsRun u w nu pos (l + 1) := hm.of_le (by omega)
      exact absurd (h.succ_iff.mp hsucc) ‹_›

end

/-- The run length is at least the threshold. -/
theorem threshold_le_runLen (s : State) : threshold s ≤ runLen s := le_extendRun _ _

/-- Settles O14: the run of T units that triggered is extended as far as it goes; NU - POS turns suffice. -/
theorem runLengthIsGreatest : Obligations.RunLengthIsGreatest := by
  intro s ht
  have hrun : IsRun (unit s) s.wb s.nu s.pos (threshold s) := isRun_threshold ht
  exact ⟨⟨threshold_le_runLen s, isRun_extendRun _ hrun⟩, fun l _ hmax hnu heq =>
    le_extendRun_of_isRun hrun ⟨hmax, hnu, heq⟩ (by omega)⟩

/-! ## The emits and the flush, by whether the segment fits (R66, R72, R73) -/

/-- An emit that fits writes its segment. -/
theorem emitSegment_of_le {seg : Segment} {size : Nat} {bytes : List Byte} {s : State} (h : s.outCnt + size ≤ s.llen) :
    emitSegment seg size bytes s = .ok (appendOut (s.outCnt + size) bytes (record seg s)) := by
  rw [emitSegment_eq, if_pos h]

/-- An emit that does not fit raises. -/
theorem emitSegment_of_lt {seg : Segment} {size : Nat} {bytes : List Byte} {s : State} (h : s.llen < s.outCnt + size) :
    emitSegment seg size bytes s = .raised (abort .expansionOverflow (record seg s)) := by
  rw [emitSegment_eq, if_neg (Nat.not_le.mpr h)]

/-- An EMIT_RUN that fits. -/
theorem emitRun_of_le {l : Nat} {p : List Byte} {s : State} (h : s.outCnt + 2 * widthBytes s.wb ≤ s.llen) :
    emitRun l p s = .ok (appendOut (s.outCnt + 2 * widthBytes s.wb) (be (l - 2) (widthBytes s.wb) ++ p)
      (record (.run l p) s)) := emitSegment_of_le h

/-- An EMIT_RUN that does not fit. -/
theorem emitRun_of_lt {l : Nat} {p : List Byte} {s : State} (h : s.llen < s.outCnt + 2 * widthBytes s.wb) :
    emitRun l p s = .raised (abort .expansionOverflow (record (.run l p) s)) := emitSegment_of_lt h

/-- An EMIT_LIT that fits writes the oracle's bytes of the literal. -/
theorem emitLit_of_le {start k : Nat} {s : State} (h : s.outCnt + widthBytes s.wb * (1 + k) ≤ s.llen) :
    emitLit start k s = .ok (appendOut (s.outCnt + widthBytes s.wb * (1 + k)) (segBytes (inp s) s.wb (.lit start k))
      (record (.lit start k) s)) := emitSegment_of_le h

/-- An EMIT_LIT that does not fit. -/
theorem emitLit_of_lt {start k : Nat} {s : State} (h : s.llen < s.outCnt + widthBytes s.wb * (1 + k)) :
    emitLit start k s = .raised (abort .expansionOverflow (record (.lit start k) s)) := emitSegment_of_lt h

/-- What a flush that fits leaves. -/
theorem flushLit_of_le {s : State} (h : 0 < s.litCnt) (hfit : s.outCnt + widthBytes s.wb * (1 + s.litCnt) ≤ s.llen) :
    flushLit s = .ok { s with
      trace := s.trace ++ [.lit s.litStart s.litCnt]
      outMem := s.outMem.writeBytes s.outCnt (segBytes (inp s) s.wb (.lit s.litStart s.litCnt))
      outCnt := s.outCnt + widthBytes s.wb * (1 + s.litCnt)
      litCnt := 0 } := by
  simp only [flushLit, if_pos h, emitLit_of_le hfit]; rfl

/-- What a flush that does not fit leaves. -/
theorem flushLit_of_lt {s : State} (h : 0 < s.litCnt) (hover : s.llen < s.outCnt + widthBytes s.wb * (1 + s.litCnt)) :
    flushLit s = .raised (abort .expansionOverflow { s with trace := s.trace ++ [.lit s.litStart s.litCnt] }) := by
  simp only [flushLit, if_pos h, emitLit_of_lt hover]; rfl

/-! ## SCAN_RUN (R63) -/

/-- SCAN_RUN is run where R56 selects it. -/
theorem exec_scanRun_of_trigger {s : State} (hp : s.phase = .scan) (hlt : s.pos < s.nu) (ht : trigger s = true) :
    exec .scanRun s = .next (scanRun s) := if_pos ⟨hp, hlt, ht⟩

/-- SCAN_RUN after a flush that raised. -/
theorem scanRun_of_flush_raised {s t : State} (hf : flushLit s = .raised t) : scanRun s = t := by
  simp only [scanRun, hf]

/-- SCAN_RUN after a flush, the run fitting: the run is written and POS advances. -/
theorem scanRun_of_le {s t : State} (hf : flushLit s = .ok t) (hfit : t.outCnt + 2 * widthBytes t.wb ≤ t.llen) :
    scanRun s = { t with
      trace := t.trace ++ [.run (runLen s) (unit s s.pos)]
      outMem := t.outMem.writeBytes t.outCnt (be (runLen s - 2) (widthBytes t.wb) ++ unit s s.pos)
      outCnt := t.outCnt + 2 * widthBytes t.wb
      pos := t.pos + runLen s } := by
  simp only [scanRun, hf, emitRun_of_le hfit]; rfl

/-- SCAN_RUN after a flush, the run not fitting: the run is the last of the trace. -/
theorem scanRun_of_lt {s t : State} (hf : flushLit s = .ok t) (hover : t.llen < t.outCnt + 2 * widthBytes t.wb) :
    scanRun s = abort .expansionOverflow { t with trace := t.trace ++ [.run (runLen s) (unit s s.pos)] } := by
  simp only [scanRun, hf, emitRun_of_lt hover]; rfl

/-- R62, R63: a run of two units needs the threshold of two. -/
theorem threshold_two_of_runLen_two {s : State} (h : runLen s = 2) : s.wb = .w1 ∧ s.litCnt = 0 := by
  by_contra hne
  have hthree : threshold s = 3 := thresholdOf_eq_three hne
  have hle : threshold s ≤ runLen s := threshold_le_runLen s
  omega

/-- Settles O16: by what the flush does (nothing pending, raised, written) and then whether the run fits. -/
theorem scanRunEffect : Obligations.ScanRunEffect := by
  intro s hp hlt ht
  rw [exec_scanRun_of_trigger hp hlt ht]
  refine ⟨threshold_two_of_runLen_two, fun h0 hfit => ?_, fun h0 hover => ?_, fun hpos hover => ?_,
    fun hpos hflush hover => ?_, fun hpos hfit => ?_⟩
  · rw [scanRun_of_le (flushLit_empty h0) hfit]
  · rw [scanRun_of_lt (flushLit_empty h0) hover]
  · rw [scanRun_of_flush_raised (flushLit_of_lt hpos hover)]
  · rw [scanRun_of_lt (flushLit_of_le hpos hflush) hover, List.append_assoc]; rfl
  · have hflush : s.outCnt + widthBytes s.wb * (1 + s.litCnt) ≤ s.llen := by omega
    rw [scanRun_of_le (flushLit_of_le hpos hflush) hfit, List.append_assoc]; rfl

/-! ## SCAN_LIT (R64, R67) -/

/-- SCAN_LIT is run where R56 selects it. -/
theorem exec_scanLit_of_not_trigger {s : State} (hp : s.phase = .scan) (hlt : s.pos < s.nu) (ht : trigger s = false) :
    exec .scanLit s = .next (scanLit s) := if_pos ⟨hp, hlt, ht⟩

/-- SCAN_LIT below the cap. -/
theorem scanLit_below_cap {s : State} (h : s.litCnt + 1 ≠ maxLit s.wb) : scanLit s = takeUnit s := if_neg h

/-- SCAN_LIT at the cap, the literal written (R67). -/
theorem scanLit_of_emit_ok {s t : State} (hcap : s.litCnt + 1 = maxLit s.wb)
    (he : emitLit (takeUnit s).litStart (takeUnit s).litCnt (takeUnit s) = .ok t) : scanLit s = clearLit t := by
  have hcap' : (takeUnit s).litCnt = maxLit (takeUnit s).wb := hcap
  simp only [scanLit, if_pos hcap', he]

/-- SCAN_LIT at the cap, the literal not fitting. -/
theorem scanLit_of_emit_raised {s t : State} (hcap : s.litCnt + 1 = maxLit s.wb)
    (he : emitLit (takeUnit s).litStart (takeUnit s).litCnt (takeUnit s) = .raised t) : scanLit s = t := by
  have hcap' : (takeUnit s).litCnt = maxLit (takeUnit s).wb := hcap
  simp only [scanLit, if_pos hcap', he]

/-- Settles O17: below the cap the unit joins; at the cap the literal with the unit is emitted, which fits or raises. -/
theorem scanLitEffect : Obligations.ScanLitEffect := by
  intro s hp hlt ht
  rw [exec_scanLit_of_not_trigger hp hlt ht]
  refine ⟨fun hbelow => ?_, fun hcap hfit => ?_, fun hcap hover => ?_⟩
  · rw [scanLit_below_cap hbelow]; rfl
  · rw [scanLit_of_emit_ok hcap (emitLit_of_le hfit)]; rfl
  · rw [scanLit_of_emit_raised hcap (emitLit_of_lt hover)]; rfl

/-! ## SCAN_END (R65) -/

/-- SCAN_END is run where R56 selects it. -/
theorem exec_scanEnd_of_pos_eq {s : State} (hp : s.phase = .scan) (hend : s.pos = s.nu) :
    exec .scanEnd s = .next (scanEnd s) := if_pos ⟨hp, hend⟩

/-- SCAN_END after a flush that raised. -/
theorem scanEnd_of_flush_raised {s t : State} (hf : flushLit s = .raised t) : scanEnd s = t := by
  simp only [scanEnd, hf]

/-- SCAN_END after a flush: the header is built and the compression succeeds. -/
theorem scanEnd_of_flush_ok {s t : State} (hf : flushLit s = .ok t) : scanEnd s = finish (buildHeader t) := by
  simp only [scanEnd, hf]

/-- The Header Builder looks at nothing a flush changes. -/
theorem buildHeader_flushed (s : State) (trace : List Segment) (outMem : Memory) (outCnt litCnt : Nat) :
    buildHeader { s with trace := trace, outMem := outMem, outCnt := outCnt, litCnt := litCnt } =
      { buildHeader s with trace := trace, outMem := outMem, outCnt := outCnt, litCnt := litCnt } := by
  unfold buildHeader
  dsimp only
  split <;> rfl

/-- The end of a successful compression, OUT_LEN being the total before the header was built. -/
theorem finish_buildHeader (s : State) :
    finish (buildHeader s) = { buildHeader s with
      outLen := BitVec.ofNat 32 s.outCnt
      busy := false, done := true, err := 0, phase := .idle } := by
  simp only [finish, setStatus, buildHeader_outCnt]

/-- Settles O18: by what the flush does (nothing pending, written, raised). -/
theorem scanEndEffect : Obligations.ScanEndEffect := by
  intro s hp hend
  rw [exec_scanEnd_of_pos_eq hp hend]
  refine ⟨fun h0 => ?_, fun hpos hfit => ?_, fun hpos hover => ?_⟩
  · rw [scanEnd_of_flush_ok (flushLit_empty h0), finish_buildHeader]
  · rw [scanEnd_of_flush_ok (flushLit_of_le hpos hfit), buildHeader_flushed]; rfl
  · rw [scanEnd_of_flush_raised (flushLit_of_lt hpos hover)]

end Sys2Proof.Machine
end

section
/-! SUPPORT. The Segment Encoder: EMIT_RUN and EMIT_LIT as operations, the bytes they write and what they leave in OUT and IN
(R72 to R76). -/

namespace Sys2Proof.Machine

/-! ## EMIT_RUN and EMIT_LIT as operations (R75, R76) -/

/-- EMIT_RUN is run in a compression, on the operands of R75. -/
theorem exec_emitRun_of_legal {s : State} {l : Nat} {p : List Byte} (hp : s.phase = .scan)
    (hops : 2 ≤ l ∧ l ≤ maxRun s.wb ∧ p.length = widthBytes s.wb) :
    exec (.emitRun l p) s = (emitRun l p s).outcome :=
  (if_neg (not_not.mpr hp)).trans (if_pos hops)

/-- EMIT_LIT is run in a compression, on the operands of R76. -/
theorem exec_emitLit_of_legal {s : State} {st k : Nat} (hp : s.phase = .scan)
    (hops : 1 ≤ k ∧ k ≤ maxLit s.wb ∧ st + k ≤ s.nu) :
    exec (.emitLit st k) s = (emitLit st k s).outcome :=
  (if_neg (not_not.mpr hp)).trans (if_pos hops)

/-- An EMIT_RUN that answers a next state had the operands of R75. -/
theorem exec_emitRun_next {s t : State} {l : Nat} {p : List Byte} (h : exec (.emitRun l p) s = .next t) :
    p.length = widthBytes s.wb ∧ (emitRun l p s).outcome = .next t := by
  change execEmitRun l p s = .next t at h
  unfold execEmitRun at h
  split_ifs at h with _ hops
  exact ⟨hops.2.2, h⟩

/-- An EMIT_LIT that answers a next state emitted. -/
theorem exec_emitLit_next {s t : State} {st k : Nat} (h : exec (.emitLit st k) s = .next t) :
    (emitLit st k s).outcome = .next t := by
  change execEmitLit st k s = .next t at h
  unfold execEmitLit at h
  split_ifs at h
  exact h

/-! ## A segment written field first, then pattern or units (R75, R76) -/

/-- Writing two sequences in a row is writing one after the other. -/
theorem Memory.writeBytes_append (m : Memory) (a : Nat) (xs ys : List Byte) :
    m.writeBytes a (xs ++ ys) = (m.writeBytes a xs).writeBytes (a + xs.length) ys := by
  induction xs generalizing m a with
  | nil => rfl
  | cons x xs ih =>
    have haddr : a + 1 + xs.length = a + (x :: xs).length := by rw [List.length_cons]; omega
    rw [List.cons_append, writeBytes_cons, writeBytes_cons, ih, haddr]

/-- An emit that fits: the segment is recorded, its field stands at OUT_CNT and the rest behind it. -/
theorem emitSegment_outcome_of_le {seg : Segment} {size : Nat} {field rest : List Byte} {s : State}
    (hfit : s.outCnt + size ≤ s.llen) :
    (emitSegment seg size (field ++ rest) s).outcome = .next { s with
      trace := s.trace ++ [seg]
      outMem := (s.outMem.writeBytes s.outCnt field).writeBytes (s.outCnt + field.length) rest
      outCnt := s.outCnt + size } := by
  rw [emitSegment_of_le hfit, ← Memory.writeBytes_append]; rfl

/-- An emit that does not fit: the segment is recorded and the compression aborted. -/
theorem emitSegment_outcome_of_lt {seg : Segment} {size : Nat} {bytes : List Byte} {s : State}
    (hover : s.llen < s.outCnt + size) :
    (emitSegment seg size bytes s).outcome =
      .next (abort .expansionOverflow { s with trace := s.trace ++ [seg] }) := by
  rw [emitSegment_of_lt hover]; rfl

/-- Settles O21: the emit of the run's field and pattern, by whether 2*WB bytes fit. -/
theorem emitRunEffect : Obligations.EmitRunEffect := by
  intro s l p hp hl hmax hlen
  rw [exec_emitRun_of_legal hp ⟨hl, hmax, hlen⟩, emitRun_def]
  refine ⟨fun hfit => ?_, fun hover => emitSegment_outcome_of_lt hover⟩
  rw [emitSegment_outcome_of_le hfit, be_length]

/-- Settles O22: the emit of the literal's field and units, by whether WB*(1+K) bytes fit. -/
theorem emitLitEffect : Obligations.EmitLitEffect := by
  intro s st k hp hk hmax hnu
  rw [exec_emitLit_of_legal hp ⟨hk, hmax, hnu⟩, emitLit_def]
  refine ⟨fun hfit => ?_, fun hover => emitSegment_outcome_of_lt hover⟩
  rw [emitSegment_outcome_of_le hfit, beSigned_length]; rfl

/-! ## The bytes of a segment and where they stand (R72) -/

/-- R72: a run with a pattern of one unit has two units of bytes. -/
theorem segBytes_run_length (f : Nat → Byte) {w : Width} (l : Nat) {p : List Byte} (hp : p.length = widthBytes w) :
    (segBytes f w (.run l p)).length = segSize w (.run l p) := by
  simp [segBytes, segSize, hp, Nat.two_mul]

/-- R72: a literal of K units has 1 + K units of bytes. -/
theorem segBytes_lit_length (f : Nat → Byte) (w : Width) (st k : Nat) :
    (segBytes f w (.lit st k)).length = segSize w (.lit st k) := by
  simp [segBytes, segSize, Nat.mul_add, Nat.mul_comm k]

/-- An emit that leaves the compression in progress fitted and wrote its segment: a raise ends it. -/
theorem emitSegment_outcome_scan {seg : Segment} {size : Nat} {bytes : List Byte} {s t : State}
    (h : (emitSegment seg size bytes s).outcome = .next t) (ht : t.phase = .scan) :
    s.outCnt + size ≤ s.llen ∧ t = appendOut (s.outCnt + size) bytes (record seg s) := by
  rw [emitSegment_outcome] at h
  split_ifs at h with hfit <;> cases h
  · exact ⟨hfit, rfl⟩
  · cases ht

/-- Byte j of what was written is found at OUT_CNT + j. -/
theorem read?_appendOut_inside (total : Nat) (s : State) {bytes : List Byte} {j : Nat} (hj : j < bytes.length) :
    (appendOut total bytes s).outMem.read? (s.outCnt + j) = bytes[j]? := by
  rw [appendOut_outMem, Memory.read?_writeBytes_inside _ hj, List.getElem?_eq_getElem hj]

/-- Every byte of OUT outside what was written reads as before. -/
theorem outByte_appendOut_outside (total : Nat) (s : State) {bytes : List Byte} {a : Nat}
    (ha : a < s.outCnt ∨ s.outCnt + bytes.length ≤ a) : outByte (appendOut total bytes s) a = outByte s a := by
  simp only [outByte, appendOut_outMem, appendOut_outDraw, appendOut_outStale, Memory.read?_writeBytes_outside _ ha]

/-- EMIT_RUN and EMIT_LIT are the emit of the oracle's bytes of their segment, which are as many as its size. -/
theorem exec_emit_next {s t : State} {i : Instr} {seg : Segment}
    (hi : (∃ l p, i = .emitRun l p ∧ seg = .run l p) ∨ (∃ st k, i = .emitLit st k ∧ seg = .lit st k))
    (h : exec i s = .next t) :
    (segBytes (inp s) s.wb seg).length = segSize s.wb seg ∧
      (emitSegment seg (segSize s.wb seg) (segBytes (inp s) s.wb seg) s).outcome = .next t := by
  obtain ⟨l, p, rfl, rfl⟩ | ⟨st, k, rfl, rfl⟩ := hi
  · obtain ⟨hlen, hemit⟩ := exec_emitRun_next h
    exact ⟨segBytes_run_length _ l hlen, hemit⟩
  · exact ⟨segBytes_lit_length _ _ st k, exec_emitLit_next h⟩

/-- Settles O26: the emit did not raise, so it appended the segment's bytes at OUT_CNT; they are as many as its size. -/
theorem emittedBytesStand : Obligations.EmittedBytesStand := by
  intro s t i seg _ _ hi h ht
  obtain ⟨hlen, hemit⟩ := exec_emit_next hi h
  obtain ⟨hfit, rfl⟩ := emitSegment_outcome_scan hemit ht
  refine ⟨hlen, rfl, hfit, fun j hj => ?_, fun a ha => ?_, fun a => rfl⟩
  · exact read?_appendOut_inside _ (record seg s) (hlen.symm ▸ hj)
  · exact outByte_appendOut_outside _ (record seg s) (hlen.symm ▸ ha)

end Sys2Proof.Machine
end

section
/-! SUPPORT. The Header Builder (R80, R81): the value of a big-endian form, and what HDR_BUILD loads in each size form. -/

namespace Sys2Proof.Machine

/-! ## The value of a big-endian form (R13, R38) -/

/-- R13: the last byte of a big-endian form is its lowest one. -/
theorem be_succ (v n : Nat) : be v (n + 1) = be (v >>> 8) n ++ [BitVec.ofNat 8 v] := by
  have hupper : ∀ j ∈ List.range n, v >>> (8 * (n - j)) = v >>> 8 >>> (8 * (n - 1 - j)) := fun j hj => by
    have hlt : j < n := List.mem_range.mp hj
    rw [← Nat.shiftRight_add, show 8 * (n - j) = 8 + 8 * (n - 1 - j) by omega]
  simp only [be, List.range_succ, List.map_append, List.map_singleton, Nat.add_sub_cancel, Nat.sub_self, Nat.mul_zero,
    Nat.shiftRight_zero]
  rw [List.map_congr_left fun j hj => congrArg (BitVec.ofNat 8) (hupper j hj)]

/-- A byte appended is the lowest one of the value. -/
theorem beValue_concat (bs : List Byte) (b : Byte) : beValue (bs ++ [b]) = beValue bs * 2 ^ 8 + b.toNat :=
  List.foldl_append

/-- The n-byte form of a number keeps it modulo 2^(8n). -/
theorem beValue_be (v n : Nat) : beValue (be v n) = v % 2 ^ (8 * n) := by
  induction n generalizing v with
  | zero => exact (Nat.mod_one v).symm
  | succ n ih =>
    calc beValue (be v (n + 1))
        = v / 2 ^ 8 % 2 ^ (8 * n) * 2 ^ 8 + v % 2 ^ 8 := by
          rw [be_succ, beValue_concat, ih, BitVec.toNat_ofNat, Nat.shiftRight_eq_div_pow]
      _ = v % (2 ^ 8 * 2 ^ (8 * n)) := by rw [Nat.mod_mul, Nat.add_comm, Nat.mul_comm]
      _ = v % 2 ^ (8 * (n + 1)) := by rw [← Nat.pow_add, Nat.mul_succ, Nat.add_comm 8]

/-- The bytes of a 32-bit word have its value. -/
theorem beValue_bytes32 (v : Word) : beValue (bytes32 v) = v.toNat := by
  exact (beValue_be v.toNat 4).trans (Nat.mod_eq_of_lt v.isLt)

/-! ## The registers of each size form (R22, R53, R54) -/

/-- R53: HDR_W0 of the 16-bit size form is word0 and the size. -/
theorem loadShort_hdrW0_toNat (type : BitVec 2) (size : BitVec 16) (s : State) :
    (loadShort type size s).hdrW0.toNat = beValue (be (type.toNat * 2 ^ 9) 2 ++ be size.toNat 2) := by
  rw [← shortHeader_eq_be, shortHeader, ← bytes32_append, beValue_bytes32]; rfl

/-- R54: HDR_W0 of the 32-bit size form is word0 and the padding. -/
theorem loadWide_hdrW0_toNat (type : BitVec 2) (size : BitVec 32) (s : State) :
    (loadWide type size s).hdrW0.toNat = beValue (be (type.toNat * 2 ^ 9 + 2 ^ 3) 2 ++ [0, 0]) := by
  have hword0 : bytes16 (hdrWord0 type true) = be (type.toNat * 2 ^ 9 + 2 ^ 3) 2 := by
    rw [bytes16_eq_be, hdrWord0_toNat, Bool.toNat_true, Nat.one_mul]
  have hpad : bytes16 0 = [0, 0] := by decide
  rw [← hword0, ← hpad, ← bytes32_append, beValue_bytes32]; rfl

/-- R54: HDR_W1 of the 32-bit size form is the size. -/
theorem loadWide_hdrW1_toNat (type : BitVec 2) (size : BitVec 32) (s : State) :
    (loadWide type size s).hdrW1.toNat = beValue (be size.toNat 4) := by
  rw [← bytes32_eq_be, beValue_bytes32]; rfl

/-! ## HDR_BUILD (R80, R81) -/

/-- Settles O29: the two ways in which WIDE is set. -/
theorem sizeFormSelection : Obligations.SizeFormSelection := by
  intro fw len
  rw [wideOf, Bool.or_eq_true, decide_eq_true_iff]

/-- HDR_BUILD loads the 32-bit size form where R80 selects it. -/
theorem buildHeader_of_wide {s : State} (h : s.fw = true ∨ 65535 < s.llen) :
    buildHeader s = loadWide (typeOf s.wb) (BitVec.ofNat 32 s.llen) s :=
  if_pos ((sizeFormSelection s.fw s.llen).mpr h)

/-- HDR_BUILD loads the 16-bit size form everywhere else. -/
theorem buildHeader_of_short {s : State} (h : s.fw = false ∧ s.llen ≤ 65535) :
    buildHeader s = loadShort (typeOf s.wb) (BitVec.ofNat 16 s.llen) s := by
  obtain ⟨hfw, hlen⟩ := h
  refine if_neg fun hwide => ?_
  obtain hfw' | hlen' := (sizeFormSelection s.fw s.llen).mp hwide
  · exact absurd (hfw.symm.trans hfw') (by decide)
  · exact absurd hlen' (Nat.not_lt.mpr hlen)

/-- HDR_BUILD changes the header registers alone. -/
theorem buildHeader_frame (s : State) :
    buildHeader s =
      { s with hdrLen := (buildHeader s).hdrLen, hdrW0 := (buildHeader s).hdrW0, hdrW1 := (buildHeader s).hdrW1 } := by
  unfold buildHeader
  split <;> rfl

/-- Settles O30: the frame of HDR_BUILD, and the registers by the size form R80 selects, LLEN fitting the size field. -/
theorem hdrBuildEffect : Obligations.HdrBuildEffect := by
  intro s hp hlen type
  have htype : (typeOf s.wb).toNat = type := by unfold type typeOf; cases s.wb <;> rfl
  refine ⟨buildHeader s, if_pos hp, buildHeader_frame s, fun hshort => ?_, fun hwide => ?_⟩
  · have hsize : (BitVec.ofNat 16 s.llen).toNat = s.llen := Nat.mod_eq_of_lt (Nat.lt_succ_of_le hshort.right)
    rw [buildHeader_of_short hshort, loadShort_hdrW0_toNat, htype, hsize]
    exact ⟨rfl, rfl, rfl⟩
  · have hsize : (BitVec.ofNat 32 s.llen).toNat = s.llen := Nat.mod_eq_of_lt hlen
    rw [buildHeader_of_wide hwide, loadWide_hdrW0_toNat, loadWide_hdrW1_toNat, htype, hsize]
    exact ⟨rfl, rfl, rfl⟩

end Sys2Proof.Machine
end

section
/-! SUPPORT. The host's CONFIG and READ (R84, R86): what each CONFIG write decodes to and does, and the STATUS word. -/

namespace Sys2Proof.Machine

/-! ## CONFIG (R84) -/

/-- A CTRL write with bit 0 = 0 is CONFIG of its two fields (R18). -/
theorem decodeWrite_ctrl_of_bit0_false {v : Word} (h : v.getLsbD 0 = false) :
    decodeWrite .ctrl v = .config (.ctrl (BitVec.ofNat 8 (v.toNat / 256)) (v.getLsbD 1)) := by
  rw [decodeWrite, if_neg (Bool.eq_false_iff.mp h), extractLsb'_unitWidth_eq_ofNat]

/-- CONFIG of IN_LEN while BUSY = 0 stores the length (R84). -/
theorem exec_config_inLen_idle {s : State} (len : Word) (hb : s.busy = false) :
    exec (.config (.inLen len)) s = .next { s with inLen := len } := by
  simp [exec, execConfig, hb]

/-- A write to a read-only register changes nothing, BUSY or not (R84). -/
theorem exec_config_readOnly (r : Reg) (v : Word) (s : State) : exec (.config (.readOnly r v)) s = .next s :=
  ite_self _

/-- Settles O5: the CTRL write by its bit 0, and each CONFIG write by the case of BUSY. -/
theorem configStores : Obligations.ConfigStores := by
  refine ⟨fun v => ⟨fun hbit => ?_, rfl⟩, fun s => ⟨fun hidle => ⟨fun uw fw => ?_, fun len => ?_⟩, ?_, ?_⟩⟩
  · rw [decodeAccess_ctrlWrite, decodeWrite_ctrl_of_bit0_false hbit]
  · exact exec_config_ctrl_idle uw fw hidle
  · exact exec_config_inLen_idle len hidle
  · exact fun r v => exec_config_readOnly r v s
  · exact fun hbusy c => exec_config_busy c hbusy

/-! ## READ (R86) -/

/-- The value of the STATUS word: ERR in 7:4, DONE in bit 1, BUSY in bit 0, every other bit 0 (R20). -/
theorem statusWord_toNat (s : State) :
    (statusWord s).toNat = s.err.toNat * 16 + (if s.done then 2 else 0) + (if s.busy then 1 else 0) := by
  simp only [statusWord, toNat_append_eq_mul_add]
  cases s.done <;> cases s.busy <;> simp <;> omega

/-- READ hands over the register's value and notes a read of STATUS with DONE = 1; the core is as before (R86, R42). -/
theorem exec_read (r : Reg) (s : State) :
    exec (.read r) s = .next { s with rdata := regValue s r, doneSeen := seesDone r s } := rfl

/-- Settles O10: the step by `exec_read`; CTRL and STATUS by the values of their words, the other registers by definition. -/
theorem readReturnsRegister : Obligations.ReadReturnsRegister := by
  intro s r
  refine ⟨regValue s r, exec_read r s, ?ctrl, ?inLen, ?status, ?outLen, ?hdrLen, ?hdrW0, ?hdrW1⟩ <;> rintro rfl
  case ctrl => exact ctrlWord_toNat s.unitWidth s.forceWide
  case status => exact statusWord_toNat s
  all_goals rfl

end Sys2Proof.Machine
end

section
/-! SUPPORT. One core step as the pieces it is made of: the pending literal flushed, a segment written or raised, a unit
taken, the end (R63 to R68, R72, R73). The invariants are proved piece by piece. -/

namespace Sys2Proof.Machine

/-! ## Writing one segment -/

/-- The segment fits: the running total stays within LLEN (R73). -/
def Fits (seg : Segment) (s : State) : Prop := s.outCnt + segSize s.wb seg ≤ s.llen

/-- A segment recorded and its bytes written at OUT_CNT (R72). -/
def writeSeg (seg : Segment) (s : State) : State :=
  appendOut (s.outCnt + segSize s.wb seg) (segBytes (inp s) s.wb seg) (record seg s)

/-- A segment recorded that does not fit: the compression is aborted at it (R77, R97). -/
def overflowAt (seg : Segment) (s : State) : State := abort .expansionOverflow (record seg s)

/-- An emit of the oracle's bytes of a segment ends well exactly where it fits. -/
theorem emit_ok_iff {seg : Segment} {s t : State} :
    emitSegment seg (segSize s.wb seg) (segBytes (inp s) s.wb seg) s = .ok t ↔ Fits seg s ∧ t = writeSeg seg s := by
  constructor
  · exact emitSegment_ok
  · rintro ⟨hfit, rfl⟩
    exact emitSegment_of_le hfit

/-- An emit of the oracle's bytes of a segment raises exactly where it does not fit. -/
theorem emit_raised_iff {seg : Segment} {s t : State} :
    emitSegment seg (segSize s.wb seg) (segBytes (inp s) s.wb seg) s = .raised t ↔
      ¬ Fits seg s ∧ t = overflowAt seg s := by
  constructor
  · intro h
    obtain ⟨hover, ht⟩ := emitSegment_raised h
    exact ⟨Nat.not_le.mpr hover, ht⟩
  · rintro ⟨hover, rfl⟩
    exact emitSegment_of_lt (Nat.not_le.mp hover)

/-! ## The pending literal -/

/-- The pending literal as a segment. -/
def litSeg (s : State) : Segment := .lit s.litStart s.litCnt

/-- The run that starts at POS, as a segment (R62, R63). -/
def runSeg (s : State) : Segment := .run (runLen s) (unit s s.pos)

/-- The pending literal, if there is one, fits. -/
def PendingFits (s : State) : Prop := 0 < s.litCnt → Fits (litSeg s) s

/-- The state after a flush that ends well (R68). -/
@[irreducible] def flushed (s : State) : State := if 0 < s.litCnt then clearLit (writeSeg (litSeg s) s) else s

theorem flushed_of_pos {s : State} (h : 0 < s.litCnt) : flushed s = clearLit (writeSeg (litSeg s) s) := by
  rw [flushed, if_pos h]

theorem flushed_of_zero {s : State} (h : s.litCnt = 0) : flushed s = s := by
  rw [flushed, if_neg (by omega)]

/-- A flush ends well exactly where the pending literal fits. -/
theorem flushLit_ok_iff {s t : State} : flushLit s = .ok t ↔ PendingFits s ∧ t = flushed s := by
  by_cases hpos : 0 < s.litCnt
  · rw [flushed_of_pos hpos]
    constructor
    · intro h
      obtain ⟨h0, -⟩ | ⟨-, s1, hemit, rfl⟩ := flushLit_ok h
      · omega
      · obtain ⟨hfit, rfl⟩ := emit_ok_iff.mp hemit
        exact ⟨fun _ => hfit, rfl⟩
    · rintro ⟨hfit, rfl⟩
      have hemit : emitLit s.litStart s.litCnt s = .ok (writeSeg (litSeg s) s) := emit_ok_iff.mpr ⟨hfit hpos, rfl⟩
      simp only [flushLit, if_pos hpos, hemit]
  · have h0 : s.litCnt = 0 := by omega
    rw [flushLit_empty h0, flushed_of_zero h0]
    constructor
    · intro h; cases h; exact ⟨fun h => absurd h hpos, rfl⟩
    · rintro ⟨-, rfl⟩; rfl

/-- A flush raises exactly where a literal is pending and does not fit. -/
theorem flushLit_raised_iff {s t : State} :
    flushLit s = .raised t ↔ ¬ PendingFits s ∧ t = overflowAt (litSeg s) s := by
  constructor
  · intro h
    obtain ⟨hpos, hemit⟩ := flushLit_raised h
    obtain ⟨hover, ht⟩ := emit_raised_iff.mp hemit
    exact ⟨fun hfit => hover (hfit hpos), ht⟩
  · rintro ⟨hover, rfl⟩
    obtain ⟨hpos, hover⟩ := Classical.not_imp.mp hover
    have hemit : emitLit s.litStart s.litCnt s = .raised (overflowAt (litSeg s) s) := emit_raised_iff.mpr ⟨hover, rfl⟩
    simp only [flushLit, if_pos hpos, hemit]

/-! ## One core step -/

/-- What a core step from s can leave (R56, R63 to R68). -/
inductive CoreStep (s : State) : State → Prop
  /-- SCAN_RUN: the pending literal and the run are written, POS moves by the run length. -/
  | run (hlt : s.pos < s.nu) (ht : trigger s = true) (hpend : PendingFits s) (hfit : Fits (runSeg s) (flushed s)) :
      CoreStep s (advance (runLen s) (writeSeg (runSeg s) (flushed s)))
  /-- SCAN_RUN: the pending literal is written, the run does not fit. -/
  | runRaised (hlt : s.pos < s.nu) (ht : trigger s = true) (hpend : PendingFits s)
      (hover : ¬ Fits (runSeg s) (flushed s)) : CoreStep s (overflowAt (runSeg s) (flushed s))
  /-- SCAN_LIT below the cap: the unit at POS joins the pending literal. -/
  | take (hlt : s.pos < s.nu) (ht : trigger s = false) (hcap : s.litCnt + 1 ≠ maxLit s.wb) : CoreStep s (takeUnit s)
  /-- SCAN_LIT at the cap: the literal with the unit is written (R67). -/
  | cap (hlt : s.pos < s.nu) (ht : trigger s = false) (hcap : s.litCnt + 1 = maxLit s.wb)
      (hpend : PendingFits (takeUnit s)) : CoreStep s (flushed (takeUnit s))
  /-- SCAN_LIT at the cap: the literal with the unit does not fit. -/
  | capRaised (hlt : s.pos < s.nu) (ht : trigger s = false) (hcap : s.litCnt + 1 = maxLit s.wb)
      (hover : ¬ PendingFits (takeUnit s)) : CoreStep s (overflowAt (litSeg (takeUnit s)) (takeUnit s))
  /-- SCAN_END: the pending literal is written, the header built, the compression ends with success. -/
  | done (hend : s.pos = s.nu) (hpend : PendingFits s) : CoreStep s (finish (buildHeader (flushed s)))
  /-- SCAN_RUN or SCAN_END: the pending literal does not fit. -/
  | flushRaised (hsel : s.pos = s.nu ∨ s.pos < s.nu ∧ trigger s = true) (hover : ¬ PendingFits s) :
      CoreStep s (overflowAt (litSeg s) s)

/-- The run is the run of the state before the flush, and emitting it is an emit of the oracle's bytes. -/
theorem emitRun_runSeg (s u : State) :
    emitRun (runLen s) (unit s s.pos) u =
      emitSegment (runSeg s) (segSize u.wb (runSeg s)) (segBytes (inp u) u.wb (runSeg s)) u := rfl

theorem coreStep_scanRun {s : State} (hlt : s.pos < s.nu) (ht : trigger s = true) : CoreStep s (scanRun s) := by
  obtain ⟨t, hf, heq⟩ | ⟨s1, t, hf, hr, heq⟩ | ⟨s1, s2, hf, hr, heq⟩ := scanRun_cases s <;> rw [heq]
  · obtain ⟨hover, rfl⟩ := flushLit_raised_iff.mp hf
    exact .flushRaised (.inr ⟨hlt, ht⟩) hover
  · obtain ⟨hpend, rfl⟩ := flushLit_ok_iff.mp hf
    obtain ⟨hover, rfl⟩ := emit_raised_iff.mp hr
    exact .runRaised hlt ht hpend hover
  · obtain ⟨hpend, rfl⟩ := flushLit_ok_iff.mp hf
    obtain ⟨hfit, rfl⟩ := emit_ok_iff.mp hr
    exact .run hlt ht hpend hfit

theorem coreStep_scanLit {s : State} (hlt : s.pos < s.nu) (ht : trigger s = false) : CoreStep s (scanLit s) := by
  have hpos : 0 < (takeUnit s).litCnt := Nat.succ_pos _
  obtain ⟨hcap, heq⟩ | ⟨hcap, t, he, heq⟩ | ⟨hcap, t, he, heq⟩ := scanLit_cases s <;> rw [heq]
  · exact .take hlt ht hcap
  · obtain ⟨hfit, rfl⟩ := emit_ok_iff.mp he
    rw [← litSeg, ← flushed_of_pos hpos]
    exact .cap hlt ht hcap fun _ => hfit
  · obtain ⟨hover, rfl⟩ := emit_raised_iff.mp he
    exact .capRaised hlt ht hcap fun hfit => hover (hfit hpos)

theorem coreStep_scanEnd {s : State} (hend : s.pos = s.nu) : CoreStep s (scanEnd s) := by
  obtain ⟨t, hf, heq⟩ | ⟨s1, hf, heq⟩ := scanEnd_cases s <;> rw [heq]
  · obtain ⟨hover, rfl⟩ := flushLit_raised_iff.mp hf
    exact .flushRaised (.inl hend) hover
  · obtain ⟨hpend, rfl⟩ := flushLit_ok_iff.mp hf
    exact .done hend hpend

/-- The selected operation leaves what `CoreStep` says. -/
theorem coreStep_of_exec {s t : State} (hp : s.phase = .scan) (h : exec (selectOp s) s = .next t) : CoreStep s t := by
  obtain ⟨hend, rfl⟩ | ⟨hlt, ht, rfl⟩ | ⟨hlt, ht, rfl⟩ := exec_selectOp hp h
  · exact coreStep_scanEnd hend
  · exact coreStep_scanRun hlt ht
  · exact coreStep_scanLit hlt ht

/-! ## The step answered (R56, R87) -/

/-- The selected operation answers a next state while POS is a legal value. -/
theorem exec_selectOp_answers {s : State} (hp : s.phase = .scan) (hle : s.pos ≤ s.nu) :
    ∃ t, exec (selectOp s) s = .next t := by
  obtain hlt | hend := hle.lt_or_eq
  · cases ht : trigger s with
    | true => exact ⟨_, by rw [selectOp_run hlt.ne ht]; exact exec_scanRun_of_trigger hp hlt ht⟩
    | false => exact ⟨_, by rw [selectOp_lit hlt.ne ht]; exact exec_scanLit_of_not_trigger hp hlt ht⟩
  · exact ⟨_, by rw [selectOp_end hend]; exact exec_scanEnd_of_pos_eq hp hend⟩

/-- The selected operation does what `CoreStep` allows, and a state allows one step only. -/
theorem exec_of_coreStep {s t : State} (hp : s.phase = .scan) (h : CoreStep s t) : exec (selectOp s) s = .next t := by
  cases h with
  | run hlt ht hpend hfit =>
    rw [selectOp_run hlt.ne ht, exec_scanRun_of_trigger hp hlt ht]
    simp only [scanRun, flushLit_ok_iff.mpr ⟨hpend, rfl⟩, emitRun_runSeg, emit_ok_iff.mpr ⟨hfit, rfl⟩]
  | runRaised hlt ht hpend hover =>
    rw [selectOp_run hlt.ne ht, exec_scanRun_of_trigger hp hlt ht]
    simp only [scanRun, flushLit_ok_iff.mpr ⟨hpend, rfl⟩, emitRun_runSeg, emit_raised_iff.mpr ⟨hover, rfl⟩]
  | take hlt ht hcap =>
    rw [selectOp_lit hlt.ne ht, exec_scanLit_of_not_trigger hp hlt ht, scanLit_below_cap hcap]
  | cap hlt ht hcap hpend =>
    have hpos : 0 < (takeUnit s).litCnt := Nat.succ_pos _
    rw [selectOp_lit hlt.ne ht, exec_scanLit_of_not_trigger hp hlt ht, flushed_of_pos hpos,
      scanLit_of_emit_ok hcap (emit_ok_iff.mpr ⟨hpend hpos, rfl⟩)]
    rfl
  | capRaised hlt ht hcap hover =>
    rw [selectOp_lit hlt.ne ht, exec_scanLit_of_not_trigger hp hlt ht,
      scanLit_of_emit_raised hcap (emit_raised_iff.mpr ⟨(Classical.not_imp.mp hover).2, rfl⟩)]
    rfl
  | done hend hpend =>
    rw [selectOp_end hend, exec_scanEnd_of_pos_eq hp hend, scanEnd_of_flush_ok (flushLit_ok_iff.mpr ⟨hpend, rfl⟩)]
  | flushRaised hsel hover =>
    have hf : flushLit s = .raised (overflowAt (litSeg s) s) := flushLit_raised_iff.mpr ⟨hover, rfl⟩
    obtain hend | ⟨hlt, ht⟩ := hsel
    · rw [selectOp_end hend, exec_scanEnd_of_pos_eq hp hend, scanEnd_of_flush_raised hf]
    · rw [selectOp_run hlt.ne ht, exec_scanRun_of_trigger hp hlt ht, scanRun_of_flush_raised hf]

/-- Settles O19: the three conditions exclude each other, and each selects its operation. -/
theorem oneOperationSelected : Obligations.OneOperationSelected := by
  intro s hp hle
  have hanswer := exec_selectOp_answers hp hle
  obtain hlt | hend := hle.lt_or_eq
  · cases ht : trigger s with
    | true => rw [selectOp_run hlt.ne ht] at hanswer ⊢; simp [hlt, hlt.ne, hanswer]
    | false => rw [selectOp_lit hlt.ne ht] at hanswer ⊢; simp [hlt, hlt.ne, hanswer]
  · rw [selectOp_end hend] at hanswer ⊢; simp [hend, hanswer]

end Sys2Proof.Machine
end

section
/-! SUPPORT. The invariant of a compression in progress (R24, R26), kept piece by piece by what a core step is made of. -/

namespace Sys2Proof.Machine

/-! ## Lists of segments -/

theorem coverFrom_append (a : Nat) (xs ys : List Segment) :
    coverFrom a (xs ++ ys) = (coverFrom a xs).bind fun b => coverFrom b ys := by
  induction xs generalizing a with
  | nil => rfl
  | cons x xs ih =>
    cases x with
    | run l p => exact ih (a + l)
    | lit start k =>
      simp only [List.cons_append, coverFrom]
      split
      · exact ih (a + k)
      · rfl

theorem traceSize_append (w : Width) (xs ys : List Segment) :
    traceSize w (xs ++ ys) = traceSize w xs + traceSize w ys := by simp [traceSize]

theorem traceSize_cons (w : Width) (x : Segment) (xs : List Segment) :
    traceSize w (x :: xs) = segSize w x + traceSize w xs := by simp [traceSize]

@[simp] theorem traceSize_nil (w : Width) : traceSize w [] = 0 := rfl

/-- R75: a run has a pattern of one unit. -/
def UnitPattern (w : Width) (seg : Segment) : Prop := ∀ l p, seg = .run l p → p.length = widthBytes w

theorem unitPattern_litSeg (w : Width) (s : State) : UnitPattern w (litSeg s) := fun _ _ h => by cases h

theorem unitPattern_runSeg (s : State) : UnitPattern s.wb (runSeg s) := fun _ _ h => by
  cases h
  exact unit_length s s.pos

/-- R72: the bytes of a segment are as many as its size. -/
theorem segBytes_length (f : Nat → Byte) {w : Width} {seg : Segment} (h : UnitPattern w seg) :
    (segBytes f w seg).length = segSize w seg := by
  cases seg with
  | run l p => exact segBytes_run_length f l (h l p rfl)
  | lit start k => exact segBytes_lit_length f w start k

theorem streamBytes_length (f : Nat → Byte) {w : Width} {segs : List Segment} (h : ∀ seg ∈ segs, UnitPattern w seg) :
    (streamBytes f w segs).length = traceSize w segs := by
  induction segs with
  | nil => rfl
  | cons seg segs ih =>
    obtain ⟨hseg, hsegs⟩ := List.forall_mem_cons.mp h
    rw [traceSize_cons, ← ih hsegs, ← segBytes_length f hseg]
    exact List.length_append

/-! ## The clauses of a run (R62) -/

section
variable {u : Nat → List Byte} {w : Width} {nu pos l : Nat}

theorem IsRun.le_maxRun (h : IsRun u w nu pos l) : l ≤ maxRun w := h.1

theorem IsRun.le_nu (h : IsRun u w nu pos l) : pos + l ≤ nu := h.2.1

theorem IsRun.units_eq (h : IsRun u w nu pos l) : ∀ k, k < l → u (pos + k) = u pos := h.2.2

end

/-! ## What the pieces leave alone -/

/-- A flush changes OUT, OUT_CNT, LIT_CNT and the trace alone. -/
theorem flushed_frame (s : State) :
    flushed s = { s with outMem := (flushed s).outMem, outCnt := (flushed s).outCnt, litCnt := 0,
                         trace := (flushed s).trace } := by
  obtain hpos | h0 := Nat.eq_zero_or_pos s.litCnt |>.symm
  · rw [flushed_of_pos hpos]; rfl
  · rw [flushed_of_zero h0, ← h0]

@[simp] theorem flushed_litCnt (s : State) : (flushed s).litCnt = 0 := by rw [flushed_frame]
@[simp] theorem flushed_phase (s : State) : (flushed s).phase = s.phase := by rw [flushed_frame]
@[simp] theorem flushed_err (s : State) : (flushed s).err = s.err := by rw [flushed_frame]
@[simp] theorem flushed_wb (s : State) : (flushed s).wb = s.wb := by rw [flushed_frame]
@[simp] theorem flushed_fw (s : State) : (flushed s).fw = s.fw := by rw [flushed_frame]
@[simp] theorem flushed_llen (s : State) : (flushed s).llen = s.llen := by rw [flushed_frame]
@[simp] theorem flushed_nu (s : State) : (flushed s).nu = s.nu := by rw [flushed_frame]
@[simp] theorem flushed_pos (s : State) : (flushed s).pos = s.pos := by rw [flushed_frame]
@[simp] theorem flushed_litStart (s : State) : (flushed s).litStart = s.litStart := by rw [flushed_frame]
@[simp] theorem flushed_hostq (s : State) : (flushed s).hostq = s.hostq := by rw [flushed_frame]
@[simp] theorem flushed_slot (s : State) : (flushed s).slot = s.slot := by rw [flushed_frame]
@[simp] theorem flushed_inMem (s : State) : (flushed s).inMem = s.inMem := by rw [flushed_frame]

/-- What the compression latched and the host filled in: the input and the configuration the core works on. -/
structure SameJob (s t : State) : Prop where
  inMem : t.inMem = s.inMem
  wb : t.wb = s.wb
  fw : t.fw = s.fw
  llen : t.llen = s.llen
  nu : t.nu = s.nu

theorem SameJob.inp {s t : State} (h : SameJob s t) : inp t = inp s := by
  funext x
  simp only [Machine.inp, memIn, h.inMem, h.llen]

theorem SameJob.trans {s t u : State} (h : SameJob s t) (h' : SameJob t u) : SameJob s u :=
  ⟨h'.inMem.trans h.inMem, h'.wb.trans h.wb, h'.fw.trans h.fw, h'.llen.trans h.llen, h'.nu.trans h.nu⟩

theorem sameJob_flushed (s : State) : SameJob s (flushed s) := by constructor <;> simp

@[simp] theorem inp_flushed (s : State) : inp (flushed s) = inp s := (sameJob_flushed s).inp

/-- Every core step works on the same input with the same configuration. -/
theorem CoreStep.sameJob {s t : State} (h : CoreStep s t) : SameJob s t := by
  cases h with
  | run | runRaised | cap | done => constructor <;> simp [writeSeg, overflowAt]
  | take | capRaised | flushRaised => exact ⟨rfl, rfl, rfl, rfl, rfl⟩

/-! ## The invariant of a compression in progress -/

/-- R20 to R24, R26 while PHASE = SCAN, but for the bound on the pending literal, which the cap flush of R67 restores. -/
structure InScan (s : State) : Prop where
  phase : s.phase = .scan
  busy : s.busy = true
  done : s.done = false
  err : s.err = 0
  results : s.outLen = 0 ∧ s.hdrLen = 0 ∧ s.hdrW0 = 0 ∧ s.hdrW1 = 0
  unseen : s.doneSeen = false
  llen : s.llen < 2 ^ 32
  nu : s.nu = unitCount s.llen s.wb
  pos : s.pos ≤ s.nu
  litStart : s.litStart ≤ s.nu
  litCnt : s.litCnt ≤ s.pos
  outCnt : s.outCnt ≤ s.llen
  pending : 0 < s.litCnt → s.litStart + s.litCnt = s.pos
  size : s.outCnt = traceSize s.wb s.trace
  cover : coverFrom 0 s.trace = some (s.pos - s.litCnt)
  patterns : ∀ seg ∈ s.trace, UnitPattern s.wb seg

/-- The flushed literal covers the pending units. -/
theorem InScan.flushed {s : State} (h : InScan s) (hpend : PendingFits s) : InScan (flushed s) := by
  obtain h0 | hpos := Nat.eq_zero_or_pos s.litCnt
  · rwa [flushed_of_zero h0]
  · have hstart : s.litStart = s.pos - s.litCnt := by have := h.pending hpos; omega
    have hend : s.pos - s.litCnt + s.litCnt = s.pos := Nat.sub_add_cancel h.litCnt
    rw [flushed_of_pos hpos]
    exact { h with
      litCnt := Nat.zero_le _
      outCnt := hpend hpos
      pending := fun hlt => absurd hlt (Nat.lt_irrefl 0)
      size := (congrArg (· + segSize s.wb (litSeg s)) h.size).trans (traceSize_append s.wb s.trace [litSeg s]).symm
      cover := by
        show coverFrom 0 (s.trace ++ [litSeg s]) = some s.pos
        rw [coverFrom_append, h.cover, Option.bind_some, litSeg, coverFrom, if_pos hstart, hend]; rfl
      patterns := List.forall_mem_append.mpr ⟨h.patterns, List.forall_mem_singleton.mpr (unitPattern_litSeg _ s)⟩ }

/-- A run written with nothing pending covers the units POS moves by. -/
theorem InScan.advance_run {s : State} {l : Nat} {p : List Byte} (h : InScan s) (h0 : s.litCnt = 0)
    (hfit : Fits (.run l p) s) (hnu : s.pos + l ≤ s.nu) (hp : p.length = widthBytes s.wb) :
    InScan (advance l (writeSeg (.run l p) s)) := by
  exact { h with
    pos := hnu
    litCnt := h.litCnt.trans (Nat.le_add_right _ _)
    outCnt := hfit
    pending := fun hlt : 0 < s.litCnt => by omega
    size := (congrArg (· + segSize s.wb (.run l p)) h.size).trans (traceSize_append s.wb s.trace [.run l p]).symm
    cover := by
      show coverFrom 0 (s.trace ++ [.run l p]) = some (s.pos + l - s.litCnt)
      rw [coverFrom_append, h.cover, h0]; rfl
    patterns := List.forall_mem_append.mpr
      ⟨h.patterns, List.forall_mem_singleton.mpr fun _ _ he => by cases he; exact hp⟩ }

/-- A unit taken into the pending literal. -/
theorem InScan.takeUnit {s : State} (h : InScan s) (hlt : s.pos < s.nu) : InScan (takeUnit s) := by
  have hstart : (if s.litCnt = 0 then s.pos else s.litStart) + (s.litCnt + 1) = s.pos + 1 := by
    split
    · omega
    · have := h.pending (by omega); omega
  exact { h with
    pos := hlt
    litStart := by show (if s.litCnt = 0 then s.pos else s.litStart) ≤ s.nu; have := h.pos; omega
    litCnt := Nat.succ_le_succ h.litCnt
    pending := fun _ => hstart
    cover := by
      show coverFrom 0 s.trace = some (s.pos + 1 - (s.litCnt + 1))
      rw [h.cover, Nat.add_sub_add_right] }

/-- What SCAN_RUN writes is a run (R62). -/
theorem isRun_runLen {s : State} (ht : trigger s = true) : IsRun (unit s) s.wb s.nu s.pos (runLen s) :=
  isRun_extendRun _ (isRun_threshold ht)

/-- The run SCAN_RUN writes stays within the input (R62). -/
theorem runLen_le {s : State} (ht : trigger s = true) : s.pos + runLen s ≤ s.nu :=
  (isRun_runLen ht).le_nu

/-- A core step that goes on keeps the invariant, the bound on the pending literal included. -/
theorem CoreStep.inScan {s t : State} (h : CoreStep s t) (hs : InScan s) (hmax : s.litCnt < maxLit s.wb)
    (hp : t.phase = .scan) : InScan t ∧ t.litCnt < maxLit t.wb := by
  have hmaxLit : 0 < maxLit s.wb := Nat.zero_lt_of_lt hmax
  cases h with
  | run hlt ht hpend hfit =>
    refine ⟨(hs.flushed hpend).advance_run (flushed_litCnt s) hfit ?_ ?_, ?_⟩
    · simpa using runLen_le ht
    · simp
    · show (flushed s).litCnt < maxLit (flushed s).wb
      simpa using hmaxLit
  | take hlt ht hcap => exact ⟨hs.takeUnit hlt, Nat.lt_of_le_of_ne hmax hcap⟩
  | cap hlt ht hcap hpend => exact ⟨(hs.takeUnit hlt).flushed hpend, by simpa using hmaxLit⟩
  | runRaised | capRaised | done | flushRaised => cases hp

/-! ## The invariant of the machine, from its parts -/

/-- The parts of the invariant that are not the core's: nothing is presented, the memories are canonical, and the length is
within the cap (I4). -/
structure Outer (s : State) : Prop where
  slot : s.slot = none
  memories : MemoriesLegal s
  cap : CapLegal s

/-- While PHASE = SCAN the invariant of the machine is that of the compression, with the bound on the pending literal. -/
theorem inv_scan_iff {s : State} (hp : s.phase = .scan) :
    Inv s ↔ Outer s ∧ InScan s ∧ s.litCnt < maxLit s.wb := by
  constructor
  · rintro ⟨hslot, hmem, ⟨hbusy, hflags, -, -⟩, ⟨hres, -⟩, ⟨hllen, hnu, hpos, hls, hlc, hout⟩, hscan,
      hcap, hsync⟩
    obtain ⟨hpend, hmax, hsize, hcover, hpat⟩ := hscan hp
    have hb : s.busy = true := hbusy.mpr hp
    obtain ⟨hd, he⟩ := hflags hb
    have hunseen : s.doneSeen = false := by
      cases hds : s.doneSeen with
      | false => rfl
      | true => rw [hsync hds] at hd; cases hd
    have hnotdone : ¬ (s.done = true ∧ s.err = 0) := fun hdone => by rw [hdone.1] at hd; cases hd
    exact ⟨⟨hslot, hmem, hcap⟩, ⟨hp, hb, hd, he, hres hnotdone, hunseen, hllen, hnu, hpos, hls, hlc, hout, hpend,
      hsize, hcover, fun seg hseg l p heq => hpat l p (heq ▸ hseg)⟩, hmax⟩
  · rintro ⟨⟨hslot, hmem, hcap⟩, h, hmax⟩
    refine ⟨hslot, hmem, ⟨by simp [h.busy, hp], fun _ => ⟨h.done, h.err⟩, fun hne => absurd h.err hne, .inl h.err⟩,
      ⟨fun _ => h.results, fun hdone => ?_⟩, ⟨h.llen, h.nu, h.pos, h.litStart, h.litCnt, h.outCnt⟩,
      fun _ => ⟨h.pending, hmax, h.size, h.cover, fun l p hseg => h.patterns _ hseg l p rfl⟩, hcap, fun hseen => ?_⟩
    · rw [h.done] at hdone; cases hdone.1
    · rw [h.unseen] at hseen; cases hseen

/-- While PHASE = IDLE the invariant asks nothing of the trace. -/
theorem inv_idle_iff {s : State} (hp : s.phase = .idle) :
    Inv s ↔ Outer s ∧ StatusLegal s ∧ ResultsLegal s ∧ DatapathLegal s ∧ SyncLegal s := by
  constructor
  · rintro ⟨hslot, hmem, hst, hres, hdp, -, hcap, hsync⟩
    exact ⟨⟨hslot, hmem, hcap⟩, hst, hres, hdp, hsync⟩
  · rintro ⟨⟨hslot, hmem, hcap⟩, hst, hres, hdp, hsync⟩
    have hscan : ScanLegal s := fun hscan => by rw [hp] at hscan; cases hscan
    exact ⟨hslot, hmem, hst, hres, hdp, hscan, hcap, hsync⟩

/-- An abort of the core leaves the invariant, from legal datapath registers. -/
theorem inv_abort {s : State} (e : ErrKind) (hout : Outer s) (hdp : DatapathLegal s)
    (he : errCode e = 1 ∨ errCode e = 2) : Inv (abort e s) := by
  have hne : errCode e ≠ 0 := by obtain he | he := he <;> rw [he] <;> decide
  refine (inv_idle_iff rfl).mpr ⟨⟨hout.slot, ⟨hout.memories.1, rfl, rfl⟩, hout.cap⟩, ?_, ?_, hdp, fun _ => rfl⟩
  · exact ⟨by simp, fun h => (nomatch h), fun _ => rfl, .inr he⟩
  · exact ⟨fun _ => ⟨rfl, rfl, rfl, rfl⟩, fun h => absurd h.2 hne⟩

theorem InScan.datapath {s : State} (h : InScan s) : DatapathLegal s :=
  ⟨h.llen, h.nu, h.pos, h.litStart, h.litCnt, h.outCnt⟩

/-- The abort at a segment that does not fit leaves the invariant. -/
theorem InScan.inv_overflowAt {s : State} (seg : Segment) (h : InScan s) (hout : Outer s) : Inv (overflowAt seg s) :=
  inv_abort (s := record seg s) _ ⟨hout.slot, hout.memories, hout.cap⟩ h.datapath (.inr rfl)

/-- The header built is of 4 bytes, with HDR_W1 = 0, or of 8. -/
theorem buildHeader_forms (s : State) :
    (buildHeader s).hdrLen = 4 ∧ (buildHeader s).hdrW1 = 0 ∨ (buildHeader s).hdrLen = 8 := by
  unfold buildHeader
  split
  · exact .inr rfl
  · exact .inl ⟨rfl, rfl⟩

/-- The end of a compression leaves the invariant. -/
theorem InScan.inv_finish {s : State} (h : InScan s) (hout : Outer s) : Inv (finish (buildHeader s)) := by
  have hlen : (BitVec.ofNat 32 s.outCnt).toNat = s.outCnt :=
    Nat.mod_eq_of_lt (h.outCnt.trans_lt h.llen)
  refine (inv_idle_iff rfl).mpr ⟨⟨?_, ?_, ?_⟩, ?_, ⟨?_, ?_⟩, ?_, fun _ => rfl⟩
  · simpa using hout.slot
  · simpa [MemoriesLegal] using hout.memories
  · simpa [CapLegal] using hout.cap
  · exact ⟨by simp, fun h => (nomatch h), fun h => absurd rfl h, .inl rfl⟩
  · exact fun hne => absurd ⟨rfl, rfl⟩ hne
  · exact fun _ => ⟨buildHeader_forms s, by simpa using hlen⟩
  · simpa [DatapathLegal] using h.datapath

theorem Outer.flushed {s : State} (h : Outer s) : Outer (flushed s) := by
  obtain ⟨hslot, ⟨hin, hmem, hhost⟩, hcap⟩ := h
  obtain h0 | hpos := Nat.eq_zero_or_pos s.litCnt
  · rw [flushed_of_zero h0]; exact ⟨hslot, ⟨hin, hmem, hhost⟩, hcap⟩
  · rw [flushed_of_pos hpos]
    exact ⟨hslot, ⟨hin, Memory.wf_writeBytes _ _ _ hmem, hhost⟩, hcap⟩

theorem Outer.writeSeg {s : State} (seg : Segment) (h : Outer s) : Outer (writeSeg seg s) := by
  obtain ⟨hslot, ⟨hin, hmem, hhost⟩, hcap⟩ := h
  exact ⟨hslot, ⟨hin, Memory.wf_writeBytes _ _ _ hmem, hhost⟩, hcap⟩

theorem Outer.takeUnit {s : State} (h : Outer s) : Outer (takeUnit s) := ⟨h.slot, h.memories, h.cap⟩

theorem Outer.advance {s : State} (l : Nat) (h : Outer s) : Outer (advance l s) := ⟨h.slot, h.memories, h.cap⟩

/-- Every core step keeps the invariant. -/
theorem CoreStep.inv {s t : State} (h : CoreStep s t) (hp : s.phase = .scan) (hs : Inv s) : Inv t := by
  obtain ⟨hout, hscan, hmax⟩ := (inv_scan_iff hp).mp hs
  have hgoes (u : State) (hu : CoreStep s u) (hpu : u.phase = .scan) (hou : Outer u) : Inv u :=
    (inv_scan_iff hpu).mpr ⟨hou, hu.inScan hscan hmax hpu⟩
  cases h with
  | run hlt ht hpend hfit =>
    exact hgoes _ (.run hlt ht hpend hfit) ((flushed_phase s).trans hp) ((hout.flushed.writeSeg _).advance _)
  | take hlt ht hcap => exact hgoes _ (.take hlt ht hcap) hp hout.takeUnit
  | cap hlt ht hcap hpend =>
    exact hgoes _ (.cap hlt ht hcap hpend) ((flushed_phase _).trans hp) hout.takeUnit.flushed
  | runRaised hlt ht hpend hover => exact (hscan.flushed hpend).inv_overflowAt _ hout.flushed
  | capRaised hlt ht hcap hover => exact (hscan.takeUnit hlt).inv_overflowAt _ hout.takeUnit
  | done hend hpend => exact (hscan.flushed hpend).inv_finish hout.flushed
  | flushRaised hsel hover => exact hscan.inv_overflowAt _ hout

end Sys2Proof.Machine
end

section
/-! SUPPORT. Every step keeps the invariant and the stream in OUT (R26, R36, R45): the core's steps by their pieces, the
host's moves one by one. -/

namespace Sys2Proof.Machine

/-! ## OUT holds the stream of the trace (R36, R45) -/

/-- OUT below OUT_CNT is the stream of the trace, whatever PHASE is. -/
def HoldsStream (s : State) : Prop :=
  ∀ a, a < s.outCnt → s.outMem.read? a = (streamBytes (inp s) s.wb s.trace)[a]?

theorem InScan.stream_length {s : State} (h : InScan s) : (streamBytes (inp s) s.wb s.trace).length = s.outCnt := by
  rw [streamBytes_length _ h.patterns, h.size]

/-- A segment written extends the stream. -/
theorem HoldsStream.writeSeg {s : State} {seg : Segment} (h : HoldsStream s) (hs : InScan s)
    (hp : UnitPattern s.wb seg) : HoldsStream (writeSeg seg s) := by
  intro a ha
  change a < s.outCnt + segSize s.wb seg at ha
  have hlen := segBytes_length (inp s) hp
  have hstream : streamBytes (inp s) s.wb (s.trace ++ [seg]) =
      streamBytes (inp s) s.wb s.trace ++ segBytes (inp s) s.wb seg := by simp [streamBytes]
  show (s.outMem.writeBytes s.outCnt (segBytes (inp s) s.wb seg)).read? a =
    (streamBytes (inp s) s.wb (s.trace ++ [seg]))[a]?
  rw [hstream]
  obtain hold | hnew := Nat.lt_or_ge a s.outCnt
  · have hlt : a < (streamBytes (inp s) s.wb s.trace).length := by rwa [hs.stream_length]
    rw [Memory.read?_writeBytes_outside _ (.inl hold), List.getElem?_append_left hlt, h a hold]
  · obtain ⟨j, rfl⟩ := Nat.exists_eq_add_of_le hnew
    have hj : j < (segBytes (inp s) s.wb seg).length := by omega
    rw [Memory.read?_writeBytes_inside _ hj, List.getElem?_append_right (by rw [hs.stream_length]; exact hnew),
      hs.stream_length, Nat.add_sub_cancel_left, List.getElem?_eq_getElem hj]

/-- A flush extends the stream. -/
theorem HoldsStream.flushed {s : State} (h : HoldsStream s) (hs : InScan s) : HoldsStream (flushed s) := by
  obtain h0 | hpos := Nat.eq_zero_or_pos s.litCnt
  · rwa [flushed_of_zero h0]
  · rw [flushed_of_pos hpos]
    exact h.writeSeg hs (unitPattern_litSeg _ s)

/-- A core step that does not abort keeps the stream. -/
theorem CoreStep.holdsStream {s t : State} (h : CoreStep s t) (hs : InScan s) (hst : HoldsStream s) (hne : t.err ≠ 2) :
    HoldsStream t := by
  cases h with
  | run hlt ht hpend hfit =>
    refine (hst.flushed hs).writeSeg (hs.flushed hpend) ?_
    rw [flushed_wb]; exact unitPattern_runSeg s
  | take => exact hst
  | cap hlt => exact HoldsStream.flushed (s := takeUnit s) hst (hs.takeUnit hlt)
  | done =>
    have hf := hst.flushed hs
    intro a ha
    have hinp : inp (finish (buildHeader (Machine.flushed s))) = inp (Machine.flushed s) :=
      SameJob.inp (by constructor <;> simp)
    rw [hinp]
    simpa using hf a (by simpa using ha)
  | runRaised | capRaised | flushRaised => exact absurd rfl hne

/-! ## START (R85) -/

/-- START on a legal width enters a legal compression, from any state with BUSY = 0. -/
theorem inScan_latch (w : Width) (s : State) :
    InScan (latch w (staleOut { clearResults s with trace := [], doneSeen := false })) where
  phase := rfl
  busy := rfl
  done := rfl
  err := rfl
  results := ⟨rfl, rfl, rfl, rfl⟩
  unseen := rfl
  llen := s.inLen.isLt
  nu := rfl
  pos := Nat.zero_le _
  litStart := Nat.zero_le _
  litCnt := Nat.le_refl _
  outCnt := Nat.zero_le _
  pending := fun h => absurd h (Nat.lt_irrefl 0)
  size := rfl
  cover := rfl
  patterns := fun _ h => (nomatch h)

theorem maxLit_pos (w : Width) : 0 < maxLit w := by cases w <;> decide

/-- START keeps the invariant, where a START of a compression is within the cap. -/
theorem inv_startScan {s : State} (h : Inv s)
    (hcap : (legalWidth s.unitWidth).isSome = true → s.inLen.toNat ≤ s.inputCap) : Inv (startScan s) := by
  obtain ⟨hslot, ⟨hin, hmem, hhost⟩, -, -, hdp, -, ⟨hcapLegal, hllen⟩, -⟩ := h
  cases hw : legalWidth s.unitWidth with
  | none =>
    rw [startScan_illegal hw]
    exact inv_abort _ ⟨hslot, ⟨hin, hmem, hhost⟩, hcapLegal, hllen⟩ hdp (.inl rfl)
  | some w =>
    rw [startScan_legal hw]
    refine (inv_scan_iff rfl).mpr ⟨⟨hslot, ⟨hin, ?_, rfl⟩, hcapLegal, ?_⟩, inScan_latch w s,
      maxLit_pos w⟩
    · rw [latch_outMem, staleOut_outMem]; exact Memory.wf_keep _ _ hmem
    · exact hcap (by rw [hw]; rfl)

/-! ## The host's moves (R91, R103) -/

/-- A register write is a START or a CONFIG. -/
theorem decodeWrite_cases (r : Reg) (v : Word) :
    (∃ uw fw, decodeWrite r v = .start uw fw) ∨ ∃ c, decodeWrite r v = .config c := by
  cases r with
  | ctrl =>
    unfold decodeWrite
    dsimp only
    split
    · exact .inl ⟨_, _, rfl⟩
    · exact .inr ⟨_, rfl⟩
  | inLen | status | outLen | hdrLen | hdrW0 | hdrW1 => exact .inr ⟨_, rfl⟩

/-- A register access decodes to a START, a CONFIG or a READ. -/
theorem decodeAccess_cases {a : Access} {i : Instr} (h : decodeAccess a = .ok i) :
    (∃ uw fw, i = .start uw fw) ∨ (∃ c, i = .config c) ∨ ∃ r, i = .read r := by
  unfold decodeAccess at h
  split at h
  · cases h
  · split at h
    · cases h
    · rename_i r _
      cases h
      split
      · obtain ⟨uw, fw, hw⟩ | ⟨c, hw⟩ := decodeWrite_cases r a.data
        · exact .inl ⟨uw, fw, hw⟩
        · exact .inr (.inl ⟨c, hw⟩)
      · exact .inr (.inr ⟨r, rfl⟩)

/-- While BUSY = 0 the machine is idle. -/
theorem Inv.idle {s : State} (h : Inv s) (hb : s.busy = false) : s.phase = .idle := by
  obtain ⟨-, -, ⟨hbusy, -, -, -⟩, -, -, -, -, -⟩ := h
  cases hp : s.phase with
  | idle => rfl
  | scan => rw [hbusy.mpr hp] at hb; cases hb

theorem inv_withHostq {s : State} (q : List HostMove) (h : Inv s) : Inv (withHostq q s) := h

/-- CONFIG keeps the invariant: it stores host fields or nothing. -/
theorem inv_config {c : ConfigWrite} {s t : State} (h : Inv s) (hexec : exec (.config c) s = .next t) : Inv t := by
  cases hb : s.busy with
  | true => rw [exec_config_busy c hb] at hexec; cases hexec; exact h
  | false =>
    cases c with
    | ctrl uw fw => rw [exec_config_ctrl_idle uw fw hb] at hexec; cases hexec; exact h
    | inLen len => rw [exec_config_inLen_idle len hb] at hexec; cases hexec; exact h
    | readOnly r v => rw [exec_config_readOnly r v s] at hexec; cases hexec; exact h

/-- READ keeps the invariant: DONE is seen only where it is 1 (R42). -/
theorem inv_read {r : Reg} {s t : State} (h : Inv s) (hexec : exec (.read r) s = .next t) : Inv t := by
  rw [exec_read] at hexec
  cases hexec
  obtain ⟨hslot, hmem, hst, hres, hdp, hscan, hcap, hsync⟩ := h
  refine ⟨hslot, hmem, hst, hres, hdp, hscan, hcap, fun hseen => ?_⟩
  simp only [seesDone, Bool.or_eq_true, Bool.and_eq_true] at hseen
  obtain hseen | ⟨-, hdone⟩ := hseen
  · exact hsync hseen
  · exact hdone

/-- A START that the cap lets through keeps the invariant. -/
theorem inv_start {uw : Byte} {fw : Bool} {s t : State} (h : Inv s) (hcap : startsAboveCap (.start uw fw) s = false)
    (hexec : exec (.start uw fw) s = .next t) : Inv t := by
  cases hb : s.busy with
  | true => rw [exec_start_busy uw fw hb] at hexec; cases hexec; exact h
  | false =>
    rw [exec_start_idle uw fw hb] at hexec
    cases hexec
    have hstored : Inv (storeCtrl uw fw s) := h
    refine inv_startScan hstored fun hw => ?_
    by_contra hover
    have habove : startsAboveCap (.start uw fw) s = true :=
      (startsAboveCap_start uw fw s).mpr ⟨hb, hw, Nat.not_le.mp hover⟩
    exact absurd (hcap.symm.trans habove) (by decide)

/-- Filling IN keeps the invariant, which says nothing of its bytes. -/
theorem inv_hostFillIn {off : Nat} {bytes : List Byte} {s t : State} (h : Inv s) (hfill : hostFillIn off bytes s = .next t) :
    Inv t := by
  unfold hostFillIn at hfill
  split_ifs at hfill
  cases hfill
  obtain ⟨hslot, ⟨hin, hmem, hhost⟩, hst, hres, hdp, hscan, hcap, hsync⟩ := h
  exact ⟨hslot, ⟨Memory.wf_writeBytes _ _ _ hin, hmem, hhost⟩, hst, hres, hdp, hscan, hcap, hsync⟩

theorem inv_hostFillOut {off : Nat} {bytes : List Byte} {s t : State} (h : Inv s)
    (hfill : hostFillOut off bytes s = .next t) : Inv t := by
  unfold hostFillOut at hfill
  split_ifs at hfill
  cases hfill
  obtain ⟨hslot, ⟨hin, hmem, hhost⟩, hst, hres, hdp, hscan, hcap, hsync⟩ := h
  exact ⟨hslot, ⟨hin, Memory.wf_writeBytes _ _ _ hmem, Memory.wf_writeBytes _ _ _ hhost⟩, hst, hres, hdp, hscan,
    hcap, hsync⟩

theorem inv_hostReadOut {n : Nat} {s t : State} (h : Inv s) (hread : hostReadOut n s = .next t) : Inv t := by
  obtain ⟨-, rfl⟩ | ⟨-, rfl⟩ := hostReadOut_next hread <;> exact h

/-- Reset leaves the invariant, at power-on and over any state of the invariant. -/
theorem inv_reset : Inv State.reset := by
  refine (inv_idle_iff rfl).mpr ⟨⟨rfl, ⟨rfl, rfl, rfl⟩, by decide, Nat.zero_le _⟩, ?_, ?_, ?_, fun h => (nomatch h)⟩
  · exact ⟨by decide, fun h => (nomatch h), fun h => absurd rfl h, .inl rfl⟩
  · exact ⟨fun _ => ⟨rfl, rfl, rfl, rfl⟩, fun h => (nomatch h.1)⟩
  · exact ⟨by decide, rfl, Nat.le_refl _, Nat.le_refl _, Nat.le_refl _, Nat.le_refl _⟩

theorem inv_hostReset {s : State} (h : Inv s) : Inv (hostReset s) := by
  obtain ⟨-, ⟨hin, -, -⟩, -, -, -, -, ⟨hcap, -⟩, -⟩ := h
  obtain ⟨-, hst, hres, hdp, hsync⟩ := (inv_idle_iff rfl).mp inv_reset
  exact (inv_idle_iff rfl).mpr ⟨⟨rfl, ⟨hin, rfl, rfl⟩, hcap, Nat.zero_le _⟩, hst, hres, hdp, hsync⟩

/-- Settles O38: the reset state by its parts; it holds no stream to speak of. -/
theorem resetMeetsInvariant : Obligations.ResetMeetsInvariant :=
  ⟨inv_reset, fun h => (nomatch h)⟩

/-! ## Every step -/

/-- Settles O39: the host's moves one by one, the core's turn by `CoreStep.inv`. -/
theorem stepKeepsInvariant : Obligations.StepKeepsInvariant := by
  intro s t h hstep
  obtain ⟨a, q, i, -, hdec, hcap, hexec⟩ | ⟨off, bytes, q, -, hfill⟩ | ⟨off, bytes, q, -, hfill⟩ | ⟨n, q, -, hread⟩ |
    ⟨q, -, rfl⟩ | ⟨q, -, -, hexec⟩ | ⟨s', hs', hturn⟩ := step_next h.1 hstep
  · obtain ⟨uw, fw, rfl⟩ | ⟨c, rfl⟩ | ⟨r, rfl⟩ := decodeAccess_cases hdec
    · exact inv_start (inv_withHostq q h) hcap hexec
    · exact inv_config (inv_withHostq q h) hexec
    · exact inv_read (inv_withHostq q h) hexec
  · exact inv_hostFillIn (inv_withHostq q h) hfill
  · exact inv_hostFillOut (inv_withHostq q h) hfill
  · exact inv_hostReadOut (inv_withHostq q h) hread
  · exact inv_hostReset (inv_withHostq q h)
  · exact inv_read (inv_withHostq q h) hexec
  · have hinv : Inv s' := by
      obtain rfl | ⟨q, rfl⟩ := hs'
      · exact h
      · exact inv_withHostq q h
    obtain ⟨hp, hexec⟩ | ⟨-, rfl⟩ := hturn
    · exact (coreStep_of_exec hp hexec).inv hp hinv
    · exact hinv

/-- A START leaves nothing in OUT to speak of. -/
theorem outHoldsTrace_start {uw : Byte} {fw : Bool} {s t : State} (h : OutHoldsTrace s)
    (hexec : exec (.start uw fw) s = .next t) : OutHoldsTrace t := by
  cases hb : s.busy with
  | true => rw [exec_start_busy uw fw hb] at hexec; cases hexec; exact h
  | false =>
    rw [exec_start_idle uw fw hb] at hexec
    cases hexec
    cases hw : legalWidth uw with
    | none => rw [startScan_illegal hw]; exact fun hp => (nomatch hp)
    | some w => rw [startScan_legal hw]; exact fun _ a ha => absurd ha (Nat.not_lt_zero a)

/-- CONFIG writes none of what the stream is made of. -/
theorem outHoldsTrace_config {c : ConfigWrite} {s t : State} (h : OutHoldsTrace s)
    (hexec : exec (.config c) s = .next t) : OutHoldsTrace t := by
  cases hb : s.busy with
  | true => rw [exec_config_busy c hb] at hexec; cases hexec; exact h
  | false =>
    cases c with
    | ctrl uw fw => rw [exec_config_ctrl_idle uw fw hb] at hexec; cases hexec; exact h
    | inLen len => rw [exec_config_inLen_idle len hb] at hexec; cases hexec; exact h
    | readOnly r v => rw [exec_config_readOnly r v s] at hexec; cases hexec; exact h

/-- The host fills IN and OUT while the machine is idle only. -/
theorem outHoldsTrace_hostFill {off : Nat} {bytes : List Byte} {s t : State} (hs : Inv s)
    (hfill : hostFillIn off bytes s = .next t ∨ hostFillOut off bytes s = .next t) : OutHoldsTrace t := by
  have hidle : t.phase = .idle := by
    obtain hfill | hfill := hfill
    · unfold hostFillIn at hfill
      split_ifs at hfill with hb
      cases hfill
      exact hs.idle (Bool.eq_false_iff.mpr hb)
    · unfold hostFillOut at hfill
      split_ifs at hfill with hb
      cases hfill
      exact hs.idle (Bool.eq_false_iff.mpr hb)
  intro hp
  rw [hidle] at hp
  cases hp

/-- Settles O40: START empties the stream, the host's other moves leave it, and the core's turn is
`CoreStep.holdsStream`. -/
theorem outIsStreamOfTrace : Obligations.OutIsStreamOfTrace := by
  intro s t hinv h hstep
  have hq (q : List HostMove) : OutHoldsTrace (withHostq q s) := h
  obtain ⟨a, q, i, -, hdec, -, hexec⟩ | ⟨off, bytes, q, -, hfill⟩ | ⟨off, bytes, q, -, hfill⟩ | ⟨n, q, -, hread⟩ |
    ⟨q, -, rfl⟩ | ⟨q, -, -, hexec⟩ | ⟨s', hs', hturn⟩ := step_next hinv.1 hstep
  · obtain ⟨uw, fw, rfl⟩ | ⟨c, rfl⟩ | ⟨r, rfl⟩ := decodeAccess_cases hdec
    · exact outHoldsTrace_start (hq q) hexec
    · exact outHoldsTrace_config (hq q) hexec
    · rw [exec_read] at hexec; cases hexec; exact h
  · exact outHoldsTrace_hostFill (inv_withHostq q hinv) (.inl hfill)
  · exact outHoldsTrace_hostFill (inv_withHostq q hinv) (.inr hfill)
  · obtain ⟨-, rfl⟩ | ⟨-, rfl⟩ := hostReadOut_next hread <;> exact h
  · exact fun hp => (nomatch hp)
  · rw [exec_read] at hexec; cases hexec; exact h
  · have hs'inv : Inv s' ∧ OutHoldsTrace s' := by
      obtain rfl | ⟨q, rfl⟩ := hs'
      · exact ⟨hinv, h⟩
      · exact ⟨inv_withHostq q hinv, hq q⟩
    obtain ⟨hp, hexec⟩ | ⟨-, rfl⟩ := hturn
    · obtain ⟨-, hscan, hmax⟩ := (inv_scan_iff hp).mp hs'inv.1
      have hcore := coreStep_of_exec hp hexec
      intro hpt
      have hne : t.err ≠ 2 := by
        obtain ⟨ht, -⟩ := hcore.inScan hscan hmax hpt
        rw [ht.err]; decide
      exact hcore.holdsStream hscan (hs'inv.2 hp) hne
    · exact hs'inv.2

end Sys2Proof.Machine
end

section
/-! SUPPORT. The core on its own (R69, R71, R77, R87, R88): it never stops, POS advances, its steps compute the segment list
of `segments`, and a run from START ends with the outcome of `compress`. -/

namespace Sys2Proof.Machine

/-! ## Progress (R25, R71, R87) -/

/-- Settles O41: the idle core stays, the scanning core's selected operation answers since POS is legal. -/
theorem coreNeverStops : Obligations.CoreNeverStops := by
  rintro s ⟨-, -, -, -, ⟨-, -, hpos, -⟩, -⟩ ⟨hq, hslot⟩
  rw [step_core hslot hq]
  split
  next hp => exact exec_selectOp_answers hp hpos
  next => exact ⟨s, rfl⟩

theorem two_le_runLen (s : State) : 2 ≤ runLen s := by
  refine le_trans ?_ (threshold_le_runLen s)
  unfold threshold thresholdOf
  split <;> decide

theorem runLen_le_maxRun {s : State} (ht : trigger s = true) : runLen s ≤ maxRun s.wb :=
  (isRun_runLen ht).le_maxRun

/-- SCAN_RUN moves POS by the run, whatever it flushed. -/
theorem pos_afterRun (s : State) :
    (advance (runLen s) (writeSeg (runSeg s) (flushed s))).pos = s.pos + runLen s :=
  congrArg (· + runLen s) (flushed_pos s)

/-- SCAN_LIT moves POS by one unit, whatever it flushed. -/
theorem pos_afterUnit (s : State) : (flushed (takeUnit s)).pos = s.pos + 1 := flushed_pos _

/-- Settles O42: POS moves by a run length or by one unit, and stays where the compression ends. -/
theorem posOnlyAdvances : Obligations.PosOnlyAdvances := by
  intro s t hinv hp hexec
  obtain ⟨-, hs, -⟩ := (inv_scan_iff hp).mp hinv
  have hpos := hs.pos
  cases coreStep_of_exec hp hexec with
  | run hlt ht hpend hfit =>
    have hnu : (advance (runLen s) (writeSeg (runSeg s) (flushed s))).nu = s.nu := flushed_nu s
    refine .inl ⟨(flushed_phase s).trans hp, hnu, ?_⟩
    rw [hnu, pos_afterRun]
    exact ⟨runLen_le ht, .inr ⟨Nat.add_le_add_left (two_le_runLen s) _, Nat.add_le_add_left (runLen_le_maxRun ht) _⟩⟩
  | take hlt => exact .inl ⟨hp, rfl, hlt, .inl rfl⟩
  | cap hlt =>
    have hnu : (flushed (takeUnit s)).nu = s.nu := flushed_nu _
    refine .inl ⟨(flushed_phase _).trans hp, hnu, ?_⟩
    rw [hnu, pos_afterUnit]
    exact ⟨hlt, .inl rfl⟩
  | runRaised => right; simp [overflowAt, hpos, errCode]
  | capRaised hlt => right; simp [overflowAt, errCode]; omega
  | flushRaised => right; simp [overflowAt, hpos, errCode]
  | done hend => right; simp [hend]

/-- The host's side and the code presented are not the core's. -/
theorem CoreStep.coreAlone {s t : State} (h : CoreStep s t) (hs : CoreAlone s) : CoreAlone t := by
  obtain ⟨hq, hslot⟩ := hs
  cases h with
  | take | capRaised | flushRaised => exact ⟨hq, hslot⟩
  | run | runRaised | cap | done => constructor <;> simp [writeSeg, overflowAt, hq, hslot]

/-- A core step that goes on moves POS. -/
theorem CoreStep.pos_lt {s t : State} (h : CoreStep s t) (hp : t.phase = .scan) : s.pos < t.pos ∧ s.pos < s.nu := by
  cases h with
  | run hlt =>
    have hmin := two_le_runLen s
    exact ⟨by rw [pos_afterRun]; omega, hlt⟩
  | take hlt => exact ⟨Nat.lt_succ_self _, hlt⟩
  | cap hlt => exact ⟨by rw [pos_afterUnit]; omega, hlt⟩
  | runRaised | capRaised | done | flushRaised => cases hp

theorem run_succ {s t : State} (h : step s = .next t) (n : Nat) :
    Host.Core.run core (n + 1) s = Host.Core.run core n t := by
  have hcore : core.step s = .next t := h
  simp only [Host.Core.run, hcore]

/-- A run of the core on its own: what every core step keeps while it goes on holds until a step ends the compression, after
at most NU - POS + 1 steps (R71). -/
theorem scan_reaches {Keeps Ends : State → Prop}
    (hready : ∀ s, Keeps s → s.phase = .scan ∧ CoreAlone s ∧ s.pos ≤ s.nu)
    (hgoes : ∀ s t, Keeps s → CoreStep s t → t.phase = .scan → Keeps t)
    (hends : ∀ s t, Keeps s → CoreStep s t → t.phase = .idle → Ends t) {s : State} (hs : Keeps s) :
    ∃ n t, n ≤ s.nu - s.pos + 1 ∧ Host.Core.run core n s = .next t ∧ t.phase = .idle ∧ Ends t := by
  induction hk : s.nu - s.pos using Nat.strong_induction_on generalizing s with
  | _ k ih =>
    obtain ⟨hp, ⟨hq, hslot⟩, hle⟩ := hready s hs
    obtain ⟨t, hexec⟩ := exec_selectOp_answers hp hle
    have hstep : step s = .next t := by rw [step_core hslot hq, if_pos hp, hexec]
    have hcore := coreStep_of_exec hp hexec
    cases hpt : t.phase with
    | idle => exact ⟨1, t, by omega, by rw [run_succ hstep]; rfl, hpt, hends s t hs hcore hpt⟩
    | scan =>
      have hnu := hcore.sameJob.nu
      obtain ⟨hadv, hlt⟩ := hcore.pos_lt hpt
      obtain ⟨n, u, hn, hrun, hend⟩ := ih (t.nu - t.pos) (by omega) (hgoes s t hs hcore hpt) rfl
      exact ⟨n + 1, u, by omega, by rw [run_succ hstep, hrun], hend⟩

/-- A core step that ends the compression sets DONE. -/
theorem CoreStep.done_of_idle {s t : State} (h : CoreStep s t) (hp : s.phase = .scan) (hpt : t.phase = .idle) :
    t.busy = false ∧ t.done = true := by
  cases h with
  | run => simp [writeSeg, hp] at hpt
  | take => simp [hp] at hpt
  | cap => simp [hp] at hpt
  | runRaised | capRaised | done | flushRaised => exact ⟨rfl, rfl⟩

/-- Settles O43: the invariant is kept until the step that ends the compression, which sets DONE. -/
theorem scanEnds : Obligations.ScanEnds := by
  intro s hinv halone hp
  refine scan_reaches (Keeps := fun s => Inv s ∧ CoreAlone s ∧ s.phase = .scan) ?_ ?_ ?_ ⟨hinv, halone, hp⟩
  · rintro u ⟨hu, halone, hpu⟩
    obtain ⟨-, hscan, -⟩ := (inv_scan_iff hpu).mp hu
    exact ⟨hpu, halone, hscan.pos⟩
  · rintro u v ⟨hu, halone, hpu⟩ hcore hpv
    exact ⟨hcore.inv hpu hu, hcore.coreAlone halone, hpv⟩
  · rintro u v ⟨-, -, hpu⟩ hcore hpv
    exact (hcore.done_of_idle hpu hpv).2

/-! ## The segments still to come (R69) -/

/-- The pending literal as a list: nothing where nothing is pending. -/
def pendingSegs (s : State) : List Segment := if 0 < s.litCnt then [litSeg s] else []

theorem flushed_trace (s : State) : (flushed s).trace = s.trace ++ pendingSegs s := by
  obtain h0 | hpos := Nat.eq_zero_or_pos s.litCnt
  · rw [flushed_of_zero h0, pendingSegs, if_neg (by omega), List.append_nil]
  · rw [flushed_of_pos hpos, pendingSegs, if_pos hpos]; rfl

/-- More turns than units left make no difference to the loop of `segments`. -/
theorem segLoop_fuel (u : Nat → List Byte) (w : Width) (nu : Nat) {fuel fuel' pos : Nat} (ls lc : Nat)
    (h : nu - pos ≤ fuel) (h' : nu - pos ≤ fuel') :
    segLoop u w nu fuel pos ls lc = segLoop u w nu fuel' pos ls lc := by
  have hend (fuel pos ls lc : Nat) (hle : nu ≤ pos) :
      segLoop u w nu fuel pos ls lc = if 0 < lc then [.lit ls lc] else [] := by
    cases fuel with
    | zero => rfl
    | succ fuel => rw [segLoop, if_neg (Nat.not_lt.mpr hle)]
  induction fuel generalizing fuel' pos ls lc with
  | zero => rw [hend 0 pos ls lc (by omega), hend fuel' pos ls lc (by omega)]
  | succ fuel ih =>
    obtain hlt | hle := Nat.lt_or_ge pos nu
    · obtain ⟨fuel', rfl⟩ := Nat.exists_eq_succ_of_ne_zero (show fuel' ≠ 0 by omega)
      have hrun : triggerOf u w nu pos lc = true → 2 ≤ runLenOf u w nu pos lc := fun _ =>
        le_trans (by unfold thresholdOf; split <;> decide) (le_extendRun _ _)
      simp only [segLoop, if_pos hlt]
      split
      next ht => rw [ih (fuel' := fuel') _ _ (by have := hrun ht; omega) (by have := hrun ht; omega)]
      next => split <;> rw [ih (fuel' := fuel') _ _ (by omega) (by omega)]
    · rw [hend _ pos ls lc hle, hend _ pos ls lc hle]

/-- One unit or run further on, the loop's turns are still enough. -/
theorem restOfScan_succ {s : State} (h : s.pos < s.nu) :
    restOfScan s = segLoop (unit s) s.wb s.nu (s.nu - s.pos - 1 + 1) s.pos s.litStart s.litCnt := by
  rw [restOfScan, Nat.sub_add_cancel (by omega)]

theorem restOfScan_end {s : State} (h : s.pos = s.nu) : restOfScan s = pendingSegs s := by
  rw [restOfScan, h, Nat.sub_self]; rfl

theorem restOfScan_run {s : State} (ht : trigger s = true) :
    restOfScan s = pendingSegs s ++ runSeg s ::
      segLoop (unit s) s.wb s.nu (s.nu - (s.pos + runLen s)) (s.pos + runLen s) s.litStart 0 := by
  have hlt := trigger_pos_lt ht
  have hlen := two_le_runLen s
  have ht' : triggerOf (unit s) s.wb s.nu s.pos s.litCnt = true := ht
  have hfuel : s.nu - (s.pos + runLen s) ≤ s.nu - s.pos - 1 := by omega
  rw [restOfScan_succ hlt, segLoop, if_pos hlt, if_pos ht',
    ← segLoop_fuel (unit s) s.wb s.nu (pos := s.pos + runLen s) s.litStart 0 hfuel (Nat.le_refl _)]
  rfl

theorem restOfScan_lit {s : State} (hlt : s.pos < s.nu) (ht : trigger s = false) :
    restOfScan s =
      if s.litCnt + 1 = maxLit s.wb then litSeg (takeUnit s) ::
        segLoop (unit s) s.wb s.nu (s.nu - (s.pos + 1)) (s.pos + 1) (takeUnit s).litStart 0
      else restOfScan (takeUnit s) := by
  have ht' : ¬ triggerOf (unit s) s.wb s.nu s.pos s.litCnt = true := by
    rw [show triggerOf (unit s) s.wb s.nu s.pos s.litCnt = false from ht]; decide
  rw [restOfScan_succ hlt, segLoop, if_pos hlt, if_neg ht', Nat.sub_sub]
  rfl

theorem SameJob.unit {s t : State} (h : SameJob s t) : unit t = unit s := by
  funext i
  rw [Machine.unit, Machine.unit, h.inp, h.wb]

/-- What the trace and the rest of the scan make together, R69's whole. -/
def wholeScan (s : State) : List Segment := s.trace ++ restOfScan s

/-- A core step that does not raise moves segments from the rest of the scan to the trace. -/
theorem CoreStep.whole {s t : State} (h : CoreStep s t) (hne : t.err ≠ 2) :
    (t.phase = .scan → wholeScan t = wholeScan s) ∧ (t.phase = .idle → s.phase = .scan → t.trace = wholeScan s) := by
  have hjob := h.sameJob
  have hunit := hjob.unit
  cases h with
  | run hlt ht hpend hfit =>
    refine ⟨fun _ => ?_, fun hidle hp => by simp [writeSeg, hp] at hidle⟩
    rw [wholeScan, wholeScan, restOfScan_run ht, restOfScan, hunit, hjob.wb, hjob.nu]
    simp [writeSeg, flushed_trace]
  | take hlt ht hcap =>
    refine ⟨fun _ => ?_, fun hidle hp => by simp [hp] at hidle⟩
    rw [wholeScan, wholeScan, restOfScan_lit hlt ht, if_neg hcap]; rfl
  | cap hlt ht hcap hpend =>
    refine ⟨fun _ => ?_, fun hidle hp => by simp [hp] at hidle⟩
    rw [wholeScan, wholeScan, restOfScan_lit hlt ht, if_pos hcap, restOfScan, hunit, hjob.wb, hjob.nu]
    simp [flushed_trace, pendingSegs]
  | done hend hpend =>
    refine ⟨fun hp => (nomatch hp), fun _ _ => ?_⟩
    rw [wholeScan, restOfScan_end hend]
    simp [flushed_trace]
  | runRaised | capRaised | flushRaised => exact absurd rfl hne

/-- The state a START with these fields latches from: fields stored, results and trace cleared (R85). -/
def beforeLatch (uw : Byte) (fw : Bool) (s : State) : State :=
  { clearResults (storeCtrl uw fw s) with trace := [], doneSeen := false }

/-- What a START on a legal width leaves (R85). -/
def started (uw : Byte) (fw : Bool) (w : Width) (s : State) : State := latch w (staleOut (beforeLatch uw fw s))

theorem exec_start_legal {s t : State} {uw : Byte} {fw : Bool} {w : Width} (hb : s.busy = false)
    (hw : legalWidth uw = some w) (hexec : exec (.start uw fw) s = .next t) : t = started uw fw w s := by
  rw [exec_start_idle uw fw hb] at hexec
  cases hexec
  exact startScan_legal hw

/-- UNIT_WIDTH in bits is legal where it is that of a width in bytes (R18). -/
theorem legalWidth_of_toNat {uw : Byte} {w : Width} (h : uw.toNat = 8 * widthBytes w) : legalWidth uw = some w := by
  have huw : uw = BitVec.ofNat 8 (8 * widthBytes w) := by rw [← h, BitVec.ofNat_toNat, BitVec.setWidth_eq]
  rw [huw]
  cases w <;> rfl

/-- Settles O44: START empties the trace with the whole input still to come, and each core step is `CoreStep.whole`. -/
theorem traceFollowsSegments : Obligations.TraceFollowsSegments := by
  refine ⟨fun s t uw fw w hb huw hexec => ?_, fun s t hp hexec hne => ?_⟩
  · rw [exec_start_legal hb (legalWidth_of_toNat huw) hexec]
    exact ⟨rfl, rfl, rfl⟩
  · obtain ⟨hgoes, hends⟩ := (coreStep_of_exec hp hexec).whole hne
    exact ⟨hgoes, fun hidle => hends hidle hp⟩

/-! ## ExpansionOverflow (R77, R98) -/

/-- A core step raises at a segment of the whole that does not fit behind those before it, which fit. -/
theorem CoreStep.overflow {s t : State} (h : CoreStep s t) (hs : InScan s) (he : t.err = 2) :
    ∃ (fit : List Segment) (seg : Segment) (later : List Segment),
      t.trace = fit ++ [seg] ∧ fit ++ seg :: later = wholeScan s ∧
      traceSize s.wb fit = t.outCnt ∧ t.outCnt ≤ s.llen ∧ s.llen < t.outCnt + segSize s.wb seg := by
  have hok : s.err ≠ 2 := by rw [hs.err]; decide
  cases h with
  | run => exact absurd (by simpa [writeSeg] using he) hok
  | take => exact absurd he hok
  | cap => exact absurd (by simpa using he) hok
  | done => cases he
  | runRaised hlt ht hpend hover =>
    have hf := hs.flushed hpend
    rw [wholeScan, restOfScan_run ht, ← List.append_assoc, ← flushed_trace]
    refine ⟨(Machine.flushed s).trace, runSeg s, _, rfl, rfl, ?_, ?_, ?_⟩
    · simpa [overflowAt] using hf.size.symm
    · simpa [overflowAt] using hf.outCnt
    · simpa [overflowAt, Fits] using hover
  | capRaised hlt ht hcap hover =>
    obtain ⟨-, hover⟩ := Classical.not_imp.mp hover
    have hrest := (restOfScan_lit hlt ht).trans (if_pos hcap)
    rw [wholeScan, hrest]
    exact ⟨s.trace, litSeg (Machine.takeUnit s), _, rfl, rfl, hs.size.symm, hs.outCnt, Nat.not_le.mp hover⟩
  | flushRaised hsel hover =>
    obtain ⟨hpos, hover⟩ := Classical.not_imp.mp hover
    have hrest : ∃ later, restOfScan s = litSeg s :: later := by
      obtain hend | ⟨-, ht⟩ := hsel
      · exact ⟨[], by rw [restOfScan_end hend, pendingSegs, if_pos hpos]⟩
      · exact ⟨_, by rw [restOfScan_run ht, pendingSegs, if_pos hpos]; rfl⟩
    obtain ⟨later, hlater⟩ := hrest
    exact ⟨s.trace, litSeg s, later, rfl, by rw [wholeScan, hlater], hs.size.symm, hs.outCnt, Nat.not_le.mp hover⟩

/-- Settles O45: the invariant gives the sizes that `CoreStep.overflow` adds up. -/
theorem overflowAtFirstTooLong : Obligations.OverflowAtFirstTooLong := by
  intro s t hinv hp hexec he
  obtain ⟨-, hs, -⟩ := (inv_scan_iff hp).mp hinv
  exact (coreStep_of_exec hp hexec).overflow hs he

end Sys2Proof.Machine
end

section
/-! SUPPORT. The segment list of R69 as a structure (R70): what `segments` yields, said once, and the properties of R70 read
off it. -/

namespace Sys2Proof.Machine

/-! ## The structure of a segment list -/

/-- The segment lists of the units a .. nu-1 that R70 describes. `short` says that the segment before was a literal below the
cap, after which no literal and no run of 2 units may stand. -/
inductive Segmented (u : Nat → List Byte) (w : Width) (nu : Nat) : Nat → Bool → List Segment → Prop
  | nil (short : Bool) : Segmented u w nu nu short []
  | run {a l : Nat} {short : Bool} {rest : List Segment} (hmin : thresholdOf w short.toNat ≤ l) (hrun : IsRun u w nu a l)
      (hend : l < maxRun w → a + l = nu ∨ u (a + l) ≠ u a) (hrest : Segmented u w nu (a + l) false rest) :
      Segmented u w nu a short (.run l (u a) :: rest)
  | lit {a k : Nat} {rest : List Segment} (hmin : 1 ≤ k) (hmax : k ≤ maxLit w)
      (hquiet : ∀ i, i < k → triggerOf u w nu (a + i) i = false)
      (hrest : Segmented u w nu (a + k) (decide (k < maxLit w)) rest) : Segmented u w nu a false (.lit a k :: rest)

section
variable {u : Nat → List Byte} {w : Width} {nu : Nat}

/-- R60: the threshold asks only whether a literal is pending. -/
theorem thresholdOf_pending (w : Width) (lc : Nat) : thresholdOf w (decide (0 < lc)).toNat = thresholdOf w lc := by
  cases lc with
  | zero => rfl
  | succ lc => simp [thresholdOf]

/-- A run found by the loop of R62 is the longest there is. -/
theorem runLenOf_maximal {pos lc : Nat} (ht : triggerOf u w nu pos lc = true) (hmax : runLenOf u w nu pos lc < maxRun w) :
    pos + runLenOf u w nu pos lc = nu ∨ u (pos + runLenOf u w nu pos lc) ≠ u pos := by
  have hT : IsRun u w nu pos (thresholdOf w lc) := isRun_threshold ht
  have hrun : IsRun u w nu pos (runLenOf u w nu pos lc) := isRun_extendRun _ hT
  obtain hend | hlt := hrun.le_nu.eq_or_lt
  · exact .inl hend
  · refine .inr fun heq => ?_
    have hsucc : IsRun u w nu pos (runLenOf u w nu pos lc + 1) := hrun.succ_iff.mpr ⟨hlt, hmax, heq⟩
    have hle : runLenOf u w nu pos lc + 1 ≤ runLenOf u w nu pos lc := le_extendRun_of_isRun hT hsucc (by omega)
    omega

/-- A pending literal in front of what may follow a literal below the cap. -/
theorem segmented_pending {a ls lc : Nat} {rest : List Segment} (hls : 0 < lc → ls = a) (hmax : lc < maxLit w)
    (hquiet : ∀ i, i < lc → triggerOf u w nu (a + i) i = false)
    (hrest : Segmented u w nu (a + lc) (decide (0 < lc)) rest) :
    Segmented u w nu a false ((if 0 < lc then [.lit ls lc] else []) ++ rest) := by
  obtain rfl | hpos := Nat.eq_zero_or_pos lc
  · exact hrest
  · rw [if_pos hpos, hls hpos]
    refine .lit hpos hmax.le hquiet ?_
    simpa [hpos, hmax] using hrest

/-- The loop of R69 with lc units pending from unit a on yields a list of the units from a on. -/
theorem segmented_segLoop {fuel a ls lc : Nat} (hnu : a + lc ≤ nu) (hfuel : nu - (a + lc) ≤ fuel) (hls : 0 < lc → ls = a)
    (hmax : lc < maxLit w) (hquiet : ∀ i, i < lc → triggerOf u w nu (a + i) i = false) :
    Segmented u w nu a false (segLoop u w nu fuel (a + lc) ls lc) := by
  have hend (he : a + lc = nu) : Segmented u w nu a false (if 0 < lc then [.lit ls lc] else []) := by
    have hrest : Segmented u w nu (a + lc) (decide (0 < lc)) [] := he ▸ .nil _
    simpa using segmented_pending hls hmax hquiet hrest
  induction fuel generalizing a ls lc with
  | zero => exact hend (by omega)
  | succ fuel ih =>
    have hfresh {b : Nat} (hb : b ≤ nu) (hbfuel : nu - b ≤ fuel) (ls : Nat) :
        Segmented u w nu b false (segLoop u w nu fuel b ls 0) :=
      ih (a := b) (lc := 0) hb hbfuel (fun h => absurd h (Nat.lt_irrefl 0)) (maxLit_pos w)
        (fun _ h => absurd h (Nat.not_lt_zero _)) fun he => by subst he; exact .nil false
    have hstart : (if lc = 0 then a + lc else ls) = a := by
      split
      · omega
      · exact hls (by omega)
    rw [segLoop]
    split
    next hlt =>
      split
      next ht =>
        have hrun : IsRun u w nu (a + lc) (runLenOf u w nu (a + lc) lc) := isRun_extendRun _ (isRun_threshold ht)
        have hmin : thresholdOf w lc ≤ runLenOf u w nu (a + lc) lc := le_extendRun _ _
        have htwo : 2 ≤ thresholdOf w lc := by unfold thresholdOf; split <;> decide
        have hle := hrun.le_nu
        exact segmented_pending hls hmax hquiet (.run (by rwa [thresholdOf_pending]) hrun (runLenOf_maximal ht)
          (hfresh hle (by omega) ls))
      next ht =>
        have hquiet' (i : Nat) (hi : i < lc + 1) : triggerOf u w nu (a + i) i = false := by
          obtain hi | rfl := Nat.lt_succ_iff_lt_or_eq.mp hi
          · exact hquiet i hi
          · exact Bool.eq_false_iff.mpr ht
        rw [hstart]
        split
        next hcap =>
          refine .lit (Nat.succ_pos lc) hcap.le hquiet' ?_
          rw [hcap, decide_eq_false (Nat.lt_irrefl _), ← hcap]
          exact hfresh hlt (by omega) a
        next hcap =>
          refine ih (lc := lc + 1) hlt (by omega) (fun _ => rfl) (by omega) hquiet' fun he => ?_
          have hrest : Segmented u w nu (a + (lc + 1)) (decide (0 < lc + 1)) [] := he ▸ .nil _
          simpa using segmented_pending (fun _ => rfl) (by omega) hquiet' hrest
    next hge => exact hend (by omega)

/-- `segments` yields a list of all the units. -/
theorem segmented_segments (u : Nat → List Byte) (nu : Nat) (w : Width) : Segmented u w nu 0 false (segments u nu w) :=
  segmented_segLoop (lc := 0) (Nat.zero_le nu) (Nat.le_refl nu) (fun h => absurd h (Nat.lt_irrefl 0)) (maxLit_pos w)
    fun _ h => absurd h (Nat.not_lt_zero _)

/-! ## R70 -/

/-- R70 (1): the list covers the units from a on. -/
theorem Segmented.cover {a : Nat} {short : Bool} {segs : List Segment} (h : Segmented u w nu a short segs) :
    coverFrom a segs = some nu := by
  induction h with
  | nil => rfl
  | run _ _ _ _ ih => exact ih
  | lit _ _ _ _ ih => rw [coverFrom, if_pos rfl, ih]

/-- R70 (2): every length is one its format holds. -/
theorem Segmented.lengths {a : Nat} {short : Bool} {segs : List Segment} (h : Segmented u w nu a short segs) :
    ∀ seg ∈ segs, match seg with
      | .run l _ => 2 ≤ l ∧ l ≤ maxRun w ∧ (l = 2 → w = .w1)
      | .lit _ k => 1 ≤ k ∧ k ≤ maxLit w := by
  induction h with
  | nil => exact fun _ h => (nomatch h)
  | run hmin hrun _ _ ih =>
    refine List.forall_mem_cons.mpr ⟨⟨le_trans ?_ hmin, hrun.1, fun htwo => ?_⟩, ih⟩
    · unfold thresholdOf; split <;> decide
    · by_contra hne
      have hthree := thresholdOf_eq_three (fun h => hne h.1) ▸ hmin
      omega
  | lit hmin hmax _ _ ih => exact List.forall_mem_cons.mpr ⟨⟨hmin, hmax⟩, ih⟩

/-- R70 (3), (4): the units of a run equal its pattern, and the run ends at the cap, at the end or at another unit. -/
theorem Segmented.runs {a : Nat} {short : Bool} {segs : List Segment} (h : Segmented u w nu a short segs) {b l : Nat}
    {p : List Byte} (hmem : (b, Segment.run l p) ∈ placed a segs) :
    IsRun u w nu b l ∧ p = u b ∧ (l < maxRun w → b + l = nu ∨ u (b + l) ≠ u b) := by
  induction h with
  | nil => cases hmem
  | run _ hrun hend _ ih =>
    obtain heq | hmem := List.mem_cons.mp hmem
    · cases heq; exact ⟨hrun, rfl, hend⟩
    · exact ih hmem
  | lit _ _ _ _ ih =>
    obtain heq | hmem := List.mem_cons.mp hmem
    · cases heq
    · exact ih hmem

/-- R70 (6): no unit of a literal triggered. -/
theorem Segmented.quiet {a : Nat} {short : Bool} {segs : List Segment} (h : Segmented u w nu a short segs) {b st k : Nat}
    (hmem : (b, Segment.lit st k) ∈ placed a segs) {i : Nat} (hi : i < k) : triggerOf u w nu (b + i) i = false := by
  induction h with
  | nil => cases hmem
  | run _ _ _ _ ih =>
    obtain heq | hmem := List.mem_cons.mp hmem
    · cases heq
    · exact ih hmem
  | lit _ _ hquiet _ ih =>
    obtain heq | hmem := List.mem_cons.mp hmem
    · cases heq; exact hquiet i hi
    · exact ih hmem

/-- R70 (5): after a literal below the cap no literal stands. -/
theorem Segmented.head_after_short {a st k : Nat} {short : Bool} {rest : List Segment}
    (h : Segmented u w nu a short (.lit st k :: rest)) : short = false := by cases h; rfl

/-- R70 (5): of two adjacent literals the first is full. -/
theorem Segmented.adjacent_lits {a : Nat} {short : Bool} {segs : List Segment} (h : Segmented u w nu a short segs)
    {j b k b' k' : Nat} (hj : segs[j]? = some (.lit b k)) (hj' : segs[j + 1]? = some (.lit b' k')) : k = maxLit w := by
  induction h generalizing j with
  | nil => cases hj
  | run _ _ _ _ ih =>
    cases j with
    | zero => cases hj
    | succ j => exact ih hj hj'
  | @lit a k rest _ hmax _ hrest ih =>
    cases j with
    | zero =>
      cases hj
      obtain ⟨tail, rfl⟩ : ∃ tail, rest = .lit b' k' :: tail := by
        cases rest with
        | nil => cases hj'
        | cons x tail => cases hj'; exact ⟨tail, rfl⟩
      exact hmax.antisymm (Nat.not_lt.mp (of_decide_eq_false hrest.head_after_short))
    | succ j => exact ih hj hj'

/-- The place of a run of 2 units: first where no short literal stands before, else behind a run or a full literal. -/
theorem Segmented.run_two {a : Nat} {short : Bool} {segs : List Segment} (h : Segmented u w nu a short segs)
    {j : Nat} {p : List Byte} (hj : segs[j]? = some (.run 2 p)) :
    j = 0 ∧ short = false ∨ 0 < j ∧ ((∃ l q, segs[j - 1]? = some (.run l q)) ∨
      ∃ st, segs[j - 1]? = some (.lit st (maxLit w))) := by
  have hback {x : Segment} {rest : List Segment} {j : Nat} (hj : 0 < j) : (x :: rest)[j + 1 - 1]? = rest[j - 1]? := by
    obtain ⟨i, rfl⟩ := Nat.exists_eq_add_of_le' hj
    rfl
  induction h generalizing j with
  | nil => cases hj
  | @run a l short rest hmin _ _ _ ih =>
    cases j with
    | zero =>
      cases hj
      refine .inl ⟨rfl, ?_⟩
      cases short with
      | false => rfl
      | true => exact absurd hmin (by unfold thresholdOf; simp)
    | succ j =>
      refine .inr ⟨Nat.succ_pos j, ?_⟩
      obtain ⟨rfl, -⟩ | ⟨hpos, hprev⟩ := ih hj
      · exact .inl ⟨_, _, rfl⟩
      · rwa [hback hpos]
  | @lit a k rest _ hmax _ _ ih =>
    cases j with
    | zero => cases hj
    | succ j =>
      refine .inr ⟨Nat.succ_pos j, ?_⟩
      obtain ⟨rfl, hfull⟩ | ⟨hpos, hprev⟩ := ih hj
      · have hk : k = maxLit w := hmax.antisymm (Nat.not_lt.mp (of_decide_eq_false hfull))
        exact .inr ⟨a, by rw [← hk]; rfl⟩
      · rwa [hback hpos]

/-- R75: every run has a pattern of one unit, where the units have their width. -/
theorem Segmented.patterns {a : Nat} {short : Bool} {segs : List Segment} (h : Segmented u w nu a short segs)
    (hu : ∀ i, (u i).length = widthBytes w) : ∀ seg ∈ segs, UnitPattern w seg := by
  induction h with
  | nil => exact fun _ h => (nomatch h)
  | run _ _ _ _ ih => exact List.forall_mem_cons.mpr ⟨fun _ _ he => by cases he; exact hu _, ih⟩
  | lit _ _ _ _ ih => exact List.forall_mem_cons.mpr ⟨fun _ _ he => (nomatch he), ih⟩

end

/-- Settles O53: `segments` yields a `Segmented` list. -/
theorem segmentsCoverInput : Obligations.SegmentsCoverInput :=
  fun u nu w => ⟨(segmented_segments u nu w).cover, (segmented_segments u nu w).lengths⟩

/-- Settles O54: the runs and the adjacent literals of a `Segmented` list. -/
theorem segmentsRunsMaximal : Obligations.SegmentsRunsMaximal := by
  intro u nu w
  have h := segmented_segments u nu w
  refine ⟨fun a l p hmem => ?_, fun j a k a' k' hj hj' => h.adjacent_lits hj hj'⟩
  obtain ⟨⟨-, -, heq⟩, rfl, hend⟩ := h.runs hmem
  exact ⟨heq, hend⟩

/-- Settles O55: the quiet units and the runs of two of a `Segmented` list. -/
theorem literalUnitsDidNotTrigger : Obligations.LiteralUnitsDidNotTrigger := by
  intro u nu w
  have h := segmented_segments u nu w
  refine ⟨fun a st k hmem i hai hik => ?_, fun j p hj => ?_⟩
  · have hquiet := h.quiet hmem (i := i - a) (by omega)
    rw [Nat.add_sub_cancel' hai] at hquiet
    have hT : thresholdOf w (i - a) = if w = .w1 ∧ i = a then 2 else 3 := by
      unfold thresholdOf
      exact if_congr (and_congr_right fun _ => by omega) rfl rfl
    intro T htrig
    rw [← show thresholdOf w (i - a) = T from hT] at htrig
    exact absurd (hquiet.symm.trans ((triggerOf_iff u w nu i (i - a)).mpr htrig)) (by decide)
  · obtain ⟨rfl, -⟩ | ⟨-, hprev⟩ := h.run_two hj
    · exact .inl rfl
    · exact .inr hprev

/-! ## An input of literals only (R78) -/

/-- Literals take their units and one field each. -/
theorem traceSize_of_lits {w : Width} {a b : Nat} {segs : List Segment} (hcover : coverFrom a segs = some b)
    (hlits : ∀ seg ∈ segs, ∃ st k, seg = .lit st k) :
    a ≤ b ∧ traceSize w segs = widthBytes w * (segs.length + (b - a)) := by
  induction segs generalizing a with
  | nil => cases hcover; simp
  | cons seg segs ih =>
    obtain ⟨⟨st, k, rfl⟩, hrest⟩ := List.forall_mem_cons.mp hlits
    rw [coverFrom] at hcover
    split at hcover
    · obtain ⟨hle, hsize⟩ := ih hcover hrest
      refine ⟨by omega, ?_⟩
      rw [traceSize_cons, hsize, segSize, ← Nat.mul_add, List.length_cons]
      congr 1
      omega
    · cases hcover

/-- The units of an input reach its end (R8). -/
theorem le_unitCount_mul (len : Nat) (w : Width) : len ≤ unitCount len w * widthBytes w := by
  have hpos := widthBytes_pos w
  have hdiv := Nat.div_add_mod (len + widthBytes w - 1) (widthBytes w)
  have hmod := Nat.mod_lt (len + widthBytes w - 1) hpos
  rw [unitCount, Nat.mul_comm]
  omega

/-- The stream's length is the size of its segments. -/
theorem rawStream_length (input : List Byte) (w : Width) :
    (rawStream input w).length =
      traceSize w (segments (unitOf (paddedInput input) w) (unitCount input.length w) w) :=
  streamBytes_length _ ((segmented_segments _ _ w).patterns (unitOf_length _ w))

/-- Settles O56: the units alone reach the end of the input, and one field at least comes on top. -/
theorem allLiteralInputExpands : Obligations.AllLiteralInputExpands := by
  intro input w hne hlits
  have hcover := (segmented_segments (unitOf (paddedInput input) w) (unitCount input.length w) w).cover
  obtain ⟨-, hsize⟩ := traceSize_of_lits (w := w) hcover hlits
  have hlen : 0 < input.length := List.length_pos_iff.mpr hne
  have hreach := le_unitCount_mul input.length w
  have hsegs : 0 < (segments (unitOf (paddedInput input) w) (unitCount input.length w) w).length := by
    refine List.length_pos_iff.mpr fun hnil => ?_
    rw [hnil] at hcover
    have hzero : 0 = unitCount input.length w := Option.some.inj hcover
    rw [← hzero, Nat.zero_mul] at hreach
    omega
  have hfield : widthBytes w * 1 ≤
      widthBytes w * (segments (unitOf (paddedInput input) w) (unitCount input.length w) w).length :=
    Nat.mul_le_mul_left _ hsegs
  have hpos := widthBytes_pos w
  rw [rawStream_length, hsize, Nat.sub_zero, Nat.mul_add, Nat.mul_comm _ (unitCount input.length w)]
  omega

end Sys2Proof.Machine
end

section
/-! SUPPORT. The machine computes `compress` (R88): what every core step of a compression keeps from START on, and what its
last step leaves. -/

namespace Sys2Proof.Machine

/-- A compression on its way from START: its invariant, the stream in OUT, nothing else moving, and the input, the
configuration and the whole of R69 as START left them. -/
structure OnCourse (s0 s : State) : Prop where
  scan : InScan s
  max : s.litCnt < maxLit s.wb
  stream : HoldsStream s
  alone : CoreAlone s
  job : SameJob s0 s
  whole : wholeScan s = wholeScan s0

/-- A core step that goes on stays on course. -/
theorem OnCourse.step {s0 s t : State} (h : OnCourse s0 s) (hcore : CoreStep s t) (hp : t.phase = .scan) :
    OnCourse s0 t := by
  obtain ⟨hscan, hmax⟩ := hcore.inScan h.scan h.max hp
  have hne : t.err ≠ 2 := by rw [hscan.err]; decide
  exact ⟨hscan, hmax, hcore.holdsStream h.scan h.stream hne, hcore.coreAlone h.alone, h.job.trans hcore.sameJob,
    ((hcore.whole hne).1 hp).trans h.whole⟩

/-- An abort leaves the results 0 (R97). -/
theorem CoreStep.results_of_err {s t : State} (h : CoreStep s t) (hs : s.err = 0) (he : t.err ≠ 0) :
    t.err = 2 ∧ t.outLen = 0 ∧ t.hdrLen = 0 ∧ t.hdrW0 = 0 ∧ t.hdrW1 = 0 := by
  cases h with
  | run | take | cap => exact absurd (by simpa [writeSeg] using hs) he
  | done => exact absurd rfl he
  | runRaised | capRaised | flushRaised => exact ⟨rfl, rfl, rfl, rfl, rfl⟩

/-- The step that ends the compression with ERR = 0 is SCAN_END after a flush that ended well. -/
theorem CoreStep.eq_finish {s t : State} (h : CoreStep s t) (hp : s.phase = .scan) (hpt : t.phase = .idle)
    (he : t.err = 0) : PendingFits s ∧ t = finish (buildHeader (flushed s)) := by
  cases h with
  | run => simp [writeSeg, hp] at hpt
  | take => simp [hp] at hpt
  | cap => simp [hp] at hpt
  | done _ hpend => exact ⟨hpend, rfl⟩
  | runRaised | capRaised | flushRaised => cases he

/-- OUT_LEN bytes of OUT are the stream, where OUT holds it (R45). -/
theorem streamOf_eq {t : State} {bytes : List Byte} (hlen : t.outLen.toNat = bytes.length)
    (hread : ∀ a, a < bytes.length → t.outMem.read? a = bytes[a]?) : streamOf t = bytes := by
  refine List.ext_getElem (by simp [streamOf, hlen]) fun a ha hb => ?_
  have hread := hread a hb
  rw [List.getElem?_eq_getElem hb] at hread
  simp [streamOf, outByte, hread]

/-- What the last step of a compression with ERR = 0 leaves: the whole fits, and OUT and the header registers hold the stream
and the header. -/
theorem OnCourse.success {s0 s t : State} (h : OnCourse s0 s) (hcore : CoreStep s t) (hpt : t.phase = .idle)
    (he : t.err = 0) :
    traceSize s0.wb (wholeScan s0) ≤ s0.llen ∧
      t.outLen.toNat = (streamBytes (inp s0) s0.wb (wholeScan s0)).length ∧
      streamOf t = streamBytes (inp s0) s0.wb (wholeScan s0) ∧ headerOf t = headerBytes s0.wb s0.fw s0.llen := by
  have hne : t.err ≠ 2 := by rw [he]; decide
  have htrace : t.trace = wholeScan s0 := ((hcore.whole hne).2 hpt h.scan.phase).trans h.whole
  have hstream := hcore.holdsStream h.scan h.stream hne
  have hjob := h.job.trans hcore.sameJob
  obtain ⟨hpend, rfl⟩ := hcore.eq_finish h.scan.phase hpt he
  have hf := h.scan.flushed hpend
  have hcnt : (flushed s).outCnt = traceSize s0.wb (wholeScan s0) := by
    rw [hf.size, ← htrace, ← hjob.wb]; simp
  have hlen : (streamBytes (inp s0) s0.wb (wholeScan s0)).length = (flushed s).outCnt := by
    rw [← htrace, ← hjob.wb, hcnt, ← htrace, ← hjob.wb]
    exact streamBytes_length _ (by simpa using hf.patterns)
  have hout : (finish (buildHeader (flushed s))).outLen.toNat = (flushed s).outCnt := by
    simpa using Nat.mod_eq_of_lt (hf.outCnt.trans_lt hf.llen)
  refine ⟨?_, hout.trans hlen.symm, streamOf_eq (hout.trans hlen.symm) fun a ha => ?_, ?_⟩
  · rw [← hcnt, ← hjob.llen]; simpa using hf.outCnt
  · rw [← htrace, ← hjob.wb, ← hjob.inp]
    exact hstream a (by simpa [hlen] using ha)
  · show headerOf (buildHeader (flushed s)) = _
    rw [headerOf_buildHeader, ← hjob.wb, ← hjob.fw, ← hjob.llen]; simp

/-- What the last step of a compression with another ERR leaves: the whole does not fit (R77). -/
theorem OnCourse.failure {s0 s t : State} (h : OnCourse s0 s) (hcore : CoreStep s t) (he : t.err = 2) :
    s0.llen < traceSize s0.wb (wholeScan s0) := by
  obtain ⟨fit, seg, later, -, hwhole, hsize, -, hover⟩ := hcore.overflow h.scan he
  rw [← h.whole, ← hwhole, ← h.job.wb, ← h.job.llen, traceSize_append, traceSize_cons]
  omega

/-! ## From START on -/

/-- R34: the padded input of the core is that of the bytes the host filled in. -/
theorem inp_eq_paddedInput {s t : State} (hmem : t.inMem = s.inMem) (hlen : t.llen = s.inLen.toNat) :
    inp t = paddedInput (inputOf s) := by
  funext x
  by_cases hx : x < s.inLen.toNat <;> simp [inp, memIn, paddedInput, inputOf, hmem, hlen, hx, List.getD_eq_getElem?_getD]

@[simp] theorem inputOf_length (s : State) : (inputOf s).length = s.inLen.toNat := by simp [inputOf]

section
variable (uw : Byte) (fw : Bool) (w : Width) (s : State)

theorem onCourse_started (halone : CoreAlone s) : OnCourse (started uw fw w s) (started uw fw w s) where
  scan := inScan_latch w _
  max := maxLit_pos w
  stream := fun _ ha => absurd ha (Nat.not_lt_zero _)
  alone := halone
  job := ⟨rfl, rfl, rfl, rfl, rfl⟩
  whole := rfl

@[simp] theorem inp_started : inp (started uw fw w s) = paddedInput (inputOf s) := inp_eq_paddedInput rfl rfl

/-- From START on the whole is `segments` of the input the host filled in. -/
theorem wholeScan_started :
    wholeScan (started uw fw w s) =
      segments (unitOf (paddedInput (inputOf s)) w) (unitCount (inputOf s).length w) w := by
  have hunit : unit (started uw fw w s) = unitOf (paddedInput (inputOf s)) w := by
    rw [← inp_started uw fw w s]; rfl
  have hwhole : wholeScan (started uw fw w s) =
      segments (unit (started uw fw w s)) (unitCount s.inLen.toNat w) w := rfl
  rw [hwhole, hunit, inputOf_length]

/-- Its bytes are the stream of `compress` before the limit of R77. -/
theorem streamBytes_started :
    streamBytes (inp (started uw fw w s)) w (wholeScan (started uw fw w s)) = rawStream (inputOf s) w := by
  rw [inp_started, wholeScan_started]; rfl

theorem traceSize_started :
    traceSize w (wholeScan (started uw fw w s)) = (rawStream (inputOf s) w).length := by
  rw [rawStream_length, wholeScan_started]

/-- The run of a START on a legal width ends with a step from a state on course (R71). -/
theorem started_reaches (halone : CoreAlone s) :
    ∃ n t u, n ≤ (started uw fw w s).nu + 1 ∧ Host.Core.run core n (started uw fw w s) = .next t ∧
      t.phase = .idle ∧ OnCourse (started uw fw w s) u ∧ CoreStep u t := by
  obtain ⟨n, t, hn, hrun, hpt, u, hu, hcore⟩ := scan_reaches (Keeps := OnCourse (started uw fw w s))
    (Ends := fun t => ∃ u, OnCourse (started uw fw w s) u ∧ CoreStep u t)
    (fun u hu => ⟨hu.scan.phase, hu.alone, hu.scan.pos⟩) (fun u v hu hcore hp => hu.step hcore hp)
    (fun u v hu hcore _ => ⟨u, hu, hcore⟩) (onCourse_started uw fw w s halone)
  exact ⟨n, t, u, hn, hrun, hpt, hu, hcore⟩

end

/-- Settles O46: an illegal width ends at once; from a legal START on the compression stays on course, and its last step
leaves the outcome of `compress`. -/
theorem machineComputesCompress : Obligations.MachineComputesCompress := by
  intro s s0 uw fw hb halone hexec
  cases hw : legalWidth uw with
  | none =>
    have hs0 : s0 = startScan (storeCtrl uw fw s) := by rw [exec_start_idle uw fw hb] at hexec; cases hexec; rfl
    rw [startScan_illegal hw] at hs0
    subst hs0
    refine ⟨0, _, Nat.zero_le _, rfl, rfl, rfl, rfl, ?_⟩
    simp only [compressOf, hw]
    exact ⟨rfl, rfl, rfl, rfl, rfl⟩
  | some w =>
    obtain rfl := exec_start_legal hb hw hexec
    obtain ⟨n, t, u, hn, hrun, hpt, hu, hcore⟩ := started_reaches uw fw w s halone
    obtain ⟨hbusy, hdone⟩ := hcore.done_of_idle hu.scan.phase hpt
    refine ⟨n, t, hn, hrun, hbusy, hdone, hpt, ?_⟩
    simp only [compressOf, hw, inputOf_length, ← traceSize_started uw fw w s]
    by_cases he : t.err = 0
    · obtain ⟨hfits, hlen, hout, hhdr⟩ := hu.success hcore hpt he
      have hstream := streamBytes_started uw fw w s
      have hfits : traceSize w (wholeScan (started uw fw w s)) ≤ s.inLen.toNat := hfits
      rw [if_neg (Nat.not_lt.mpr hfits)]
      exact ⟨he, hlen.trans (congrArg List.length hstream), hout.trans hstream, hhdr⟩
    · obtain ⟨herr, hzero⟩ := hcore.results_of_err hu.scan.err he
      have hover : s.inLen.toNat < traceSize w (wholeScan (started uw fw w s)) := hu.failure hcore herr
      rw [if_pos hover]
      exact ⟨herr, hzero⟩

end Sys2Proof.Machine
end

section
/-! SUPPORT. The encodings (R46 to R54): what a code decodes to, by its field; decode and encode agree. -/

namespace Sys2Proof.Machine

/-! ## Words and their bytes (R13, R38) -/

/-- The two bytes of a word make the word. -/
theorem bytes16_join (v : BitVec 16) : v.extractLsb' 8 8 ++ v.extractLsb' 0 8 = v :=
  (BitVec.extractLsb'_append_extractLsb'_eq_extractLsb' rfl).trans BitVec.extractLsb'_eq_self

/-- The four bytes of a word make the word. -/
theorem bytes32_join (v : BitVec 32) :
    v.extractLsb' 24 8 ++ v.extractLsb' 16 8 ++ v.extractLsb' 8 8 ++ v.extractLsb' 0 8 = v := by
  have h24 := BitVec.extractLsb'_append_extractLsb'_eq_extractLsb' (x := v) (len₂ := 8) (show 24 = 16 + 8 from rfl)
  have h16 := BitVec.extractLsb'_append_extractLsb'_eq_extractLsb' (x := v) (len₂ := 16) (show 16 = 8 + 8 from rfl)
  have h8 := BitVec.extractLsb'_append_extractLsb'_eq_extractLsb' (x := v) (len₂ := 24) (show 8 = 0 + 8 from rfl)
  rw [h24, h16, h8]
  exact BitVec.extractLsb'_eq_self

/-- The bytes of a word made of two bytes. -/
theorem bytes16_of_bytes (a b : Byte) : bytes16 (a ++ b) = [a, b] := by
  simp only [bytes16, BitVec.extractLsb'_append_eq_left, BitVec.extractLsb'_append_eq_right]

/-- The bytes of a word made of four bytes. -/
theorem bytes32_of_bytes (a b c d : Byte) : bytes32 (a ++ b ++ c ++ d) = [a, b, c, d] := by
  have hassoc : a ++ b ++ c ++ d = (a ++ b) ++ (c ++ d) := by
    apply BitVec.eq_of_toNat_eq
    simp only [toNat_append_eq_mul_add]
    omega
  rw [hassoc, bytes32_append, bytes16_of_bytes, bytes16_of_bytes]
  rfl

/-- A field with sign bit 0 keeps the bits below (R46). -/
theorem field_msb {n : Nat} (b : BitVec 1) (x : BitVec n) : (b ++ x).msb = b.msb := by
  rw [BitVec.msb_append, if_neg (by decide)]

/-! ## Segments, by their field (R46 to R48) -/

/-- A stretch of the bytes of a list. -/
theorem bytesFrom_getD (bs : List Byte) (a n : Nat) (h : a + n ≤ bs.length) :
    bytesFrom (fun i => bs.getD i 0) a n = (bs.drop a).take n := by
  refine List.ext_getElem (by simp; omega) fun j hj hj' => ?_
  have hjn : j < n := by simpa using hj
  simp [bytesFrom, List.getD_eq_getElem?_getD, List.getElem?_eq_getElem (show a + j < bs.length by omega)]

section
variable {a b c d : Byte} (rest : List Byte)

theorem decode_run8 {p : Byte} (hsign : a.msb = false) :
    decode (.seg .w1 (a :: p :: rest)) = .ok (.run8 (a.extractLsb' 0 7) p) := by
  simp [decode, decodeSeg, decodeSeg8, hsign]

theorem decode_lit8 (hsign : a.msb = true) (hlen : litCount8 (a.extractLsb' 0 7) ≤ rest.length) :
    decode (.seg .w1 (a :: rest)) = .ok (.lit8 (a.extractLsb' 0 7) (rest.take (litCount8 (a.extractLsb' 0 7)))) := by
  have htake := bytesFrom_getD (a :: rest) 1 (litCount8 (a.extractLsb' 0 7)) (by rw [List.length_cons]; omega)
  have hlong : ¬ (a :: rest).length < 1 + litCount8 (a.extractLsb' 0 7) := by rw [List.length_cons]; omega
  simp only [decode, decodeSeg, decodeSeg8, List.getD_cons_zero, hsign, htake, if_neg hlong]
  rfl

theorem decode_run16 {p q : Byte} (hsign : (a ++ b).msb = false) :
    decode (.seg .w2 (a :: b :: p :: q :: rest)) = .ok (.run16 ((a ++ b).extractLsb' 0 15) (p ++ q)) := by
  simp [decode, decodeSeg, decodeSeg16, hsign]

theorem decode_lit16 (hsign : (a ++ b).msb = true)
    (hlen : 2 * litCount16 ((a ++ b).extractLsb' 0 15) ≤ rest.length) :
    decode (.seg .w2 (a :: b :: rest)) =
      .ok (.lit16 ((a ++ b).extractLsb' 0 15) (rest.take (2 * litCount16 ((a ++ b).extractLsb' 0 15)))) := by
  have htake := bytesFrom_getD (a :: b :: rest) 2 (2 * litCount16 ((a ++ b).extractLsb' 0 15))
    (by simp only [List.length_cons]; omega)
  have hlong : ¬ (a :: b :: rest).length < 2 + 2 * litCount16 ((a ++ b).extractLsb' 0 15) := by
    simp only [List.length_cons]; omega
  have hfield : ¬ (a :: b :: rest).length < 2 := by simp
  simp only [decode, decodeSeg, decodeSeg16, List.getD_cons_zero, List.getD_cons_succ, hsign, htake, if_neg hlong,
    if_neg hfield]
  rfl

theorem decode_run32 {p q r s : Byte} (hsign : (a ++ b ++ c ++ d).msb = false) :
    decode (.seg .w4 (a :: b :: c :: d :: p :: q :: r :: s :: rest)) =
      .ok (.run32 ((a ++ b ++ c ++ d).extractLsb' 0 31) (p ++ q ++ r ++ s)) := by
  have hfield : ¬ (a :: b :: c :: d :: p :: q :: r :: s :: rest).length < 4 := by simp
  have hlong : ¬ (a :: b :: c :: d :: p :: q :: r :: s :: rest).length < 8 := by simp
  simp only [decode, decodeSeg, decodeSeg32, List.getD_cons_zero, List.getD_cons_succ, if_neg hfield, if_neg hlong]
  rw [if_pos hsign]

theorem decode_lit32 (hsign : (a ++ b ++ c ++ d).msb = true)
    (hlen : 4 * litCount32 ((a ++ b ++ c ++ d).extractLsb' 0 31) ≤ rest.length) :
    decode (.seg .w4 (a :: b :: c :: d :: rest)) = .ok (.lit32 ((a ++ b ++ c ++ d).extractLsb' 0 31)
      (rest.take (4 * litCount32 ((a ++ b ++ c ++ d).extractLsb' 0 31)))) := by
  have htake := bytesFrom_getD (a :: b :: c :: d :: rest) 4 (4 * litCount32 ((a ++ b ++ c ++ d).extractLsb' 0 31))
    (by simp only [List.length_cons]; omega)
  have hlong : ¬ (a :: b :: c :: d :: rest).length < 4 + 4 * litCount32 ((a ++ b ++ c ++ d).extractLsb' 0 31) := by
    simp only [List.length_cons]; omega
  have hfield : ¬ (a :: b :: c :: d :: rest).length < 4 := by simp
  simp only [decode, decodeSeg, decodeSeg32, List.getD_cons_zero, List.getD_cons_succ, hsign, htake, if_neg hlong,
    if_neg hfield]
  rfl

end

/-! ## Headers (R51 to R55) -/

/-- The header operation of the 16-bit size form (R53). -/
def shortHdr (w : Width) (size : BitVec 16) : Instr :=
  match w with
  | .w1 => .hdr8Short size
  | .w2 => .hdr16Short size
  | .w4 => .hdr32Short size

/-- The header operation of the 32-bit size form (R54). -/
def wideHdr (w : Width) (size : BitVec 32) : Instr :=
  match w with
  | .w1 => .hdr8Wide size
  | .w2 => .hdr16Wide size
  | .w4 => .hdr32Wide size

/-- A 4-byte header decodes to its operation, whatever follows. -/
theorem decode_shortHeader (w : Width) (size : BitVec 16) (rest : List Byte) :
    decode (.hdr (shortHeader (typeOf w) size ++ rest)) = .ok (shortHdr w size) := by
  simp only [decode, shortHeader, bytes16, List.cons_append, List.nil_append, decodeHdr, List.getD_cons_zero,
    List.getD_cons_succ, bytes16_join]
  cases w <;> rfl

/-- An 8-byte header decodes to its operation, whatever follows. -/
theorem decode_wideHeader (w : Width) (size : BitVec 32) (rest : List Byte) :
    decode (.hdr (wideHeader (typeOf w) size ++ rest)) = .ok (wideHdr w size) := by
  simp only [decode, wideHeader, bytes16, bytes32, List.cons_append, List.nil_append, decodeHdr, List.getD_cons_zero,
    List.getD_cons_succ, bytes16_join, bytes32_join]
  cases w <;> rfl

/-- A header with TYPE = 11 decodes to its bits around TYPE (R55). -/
theorem decode_reservedHeader (hi : BitVec 5) (lo : BitVec 9) :
    decode (.hdr (bytes16 (hi ++ (3 : BitVec 2) ++ lo))) = .ok (.hdrReserved hi lo) := by
  have htype : (hi ++ (3 : BitVec 2) ++ lo).extractLsb' 9 2 = 3 := by
    rw [BitVec.extractLsb'_append_eq_of_le (by decide)]
    exact BitVec.extractLsb'_append_eq_right
  have hhi : (hi ++ (3 : BitVec 2) ++ lo).extractLsb' 11 5 = hi := by
    rw [BitVec.extractLsb'_append_eq_of_le (by decide)]
    exact BitVec.extractLsb'_append_eq_left
  have hlo : (hi ++ (3 : BitVec 2) ++ lo).extractLsb' 0 9 = lo := BitVec.extractLsb'_append_eq_right
  simp only [decode, bytes16, decodeHdr, List.getD_cons_zero, List.getD_cons_succ, bytes16_join, htype, hhi, hlo]
  rfl

/-! ## Register accesses (R17, R18) -/

theorem regAt_regOffset (r : Reg) : regAt (regOffset r) = some r := by cases r <;> rfl

/-- An access to a register decodes. -/
theorem decodeAccess_reg (write : Bool) (r : Reg) (v : Word) :
    decodeAccess ⟨write, regOffset r, 4, v⟩ = .ok (if write then decodeWrite r v else .read r) := by
  simp [decodeAccess, regAt_regOffset]

/-- A CTRL word decodes to its fields, as a START or a CONFIG by its lowest bit. -/
theorem decodeWrite_ctrlWord (uw : Byte) (fw start : Bool) :
    decodeWrite .ctrl (ctrlWord uw fw start) = if start then .start uw fw else .config (.ctrl uw fw) := by
  have hstart : (ctrlWord uw fw start).getLsbD 0 = start := by
    rw [ctrlWord, BitVec.getLsbD_append, if_pos (by decide)]
    cases start <;> rfl
  have hfw : (ctrlWord uw fw start).getLsbD 1 = fw := by
    rw [ctrlWord, BitVec.getLsbD_append, if_neg (by decide), BitVec.getLsbD_append, if_pos (by decide)]
    cases fw <;> rfl
  have huw : (ctrlWord uw fw start).extractLsb' 8 8 = uw := by
    rw [ctrlWord, BitVec.extractLsb'_append_eq_of_le (by decide), BitVec.extractLsb'_append_eq_of_le (by decide),
      BitVec.extractLsb'_append_eq_of_le (by decide)]
    exact BitVec.extractLsb'_append_eq_right
  simp only [decodeWrite, hstart, hfw, huw]

/-! ## Decode and encode agree -/

/-- The field of an encoded segment: its sign bit and the bits below it (R46). -/
theorem field_low {n : Nat} (b : BitVec 1) (x : BitVec n) : (b ++ x).extractLsb' 0 n = x := BitVec.extractLsb'_append_eq_right

/-- Settles O47: each constructor by what its code decodes to. -/
theorem decodeEncodeAgree : Obligations.DecodeEncodeAgree := by
  intro i c hwf henc
  cases i with
  | run8 n p =>
    cases henc
    have h := decode_run8 (a := (0 : BitVec 1) ++ n) (p := p) [] (field_msb _ _)
    rwa [field_low] at h
  | lit8 f us =>
    cases henc
    simp only [wellFormed, beq_iff_eq] at hwf
    have h := decode_lit8 (a := (1 : BitVec 1) ++ f) us (field_msb _ _)
    rw [field_low, litCount8, ← hwf, List.take_length] at h
    exact h (Nat.le_refl _)
  | run16 n p =>
    cases henc
    have h := decode_run16 (a := ((0 : BitVec 1) ++ n).extractLsb' 8 8) (b := ((0 : BitVec 1) ++ n).extractLsb' 0 8)
      (p := p.extractLsb' 8 8) (q := p.extractLsb' 0 8) []
    rw [bytes16_join, bytes16_join, field_low] at h
    exact h (field_msb _ _)
  | lit16 f us =>
    cases henc
    simp only [wellFormed, beq_iff_eq] at hwf
    have h := decode_lit16 (a := ((1 : BitVec 1) ++ f).extractLsb' 8 8) (b := ((1 : BitVec 1) ++ f).extractLsb' 0 8) us
    rw [bytes16_join, field_low, litCount16, ← hwf, List.take_length] at h
    exact h (field_msb _ _) (Nat.le_refl _)
  | run32 n p =>
    cases henc
    have h := decode_run32 (a := ((0 : BitVec 1) ++ n).extractLsb' 24 8) (b := ((0 : BitVec 1) ++ n).extractLsb' 16 8)
      (c := ((0 : BitVec 1) ++ n).extractLsb' 8 8) (d := ((0 : BitVec 1) ++ n).extractLsb' 0 8)
      (p := p.extractLsb' 24 8) (q := p.extractLsb' 16 8) (r := p.extractLsb' 8 8) (s := p.extractLsb' 0 8) []
    rw [bytes32_join, bytes32_join, field_low] at h
    exact h (field_msb _ _)
  | lit32 f us =>
    cases henc
    simp only [wellFormed, beq_iff_eq] at hwf
    have h := decode_lit32 (a := ((1 : BitVec 1) ++ f).extractLsb' 24 8) (b := ((1 : BitVec 1) ++ f).extractLsb' 16 8)
      (c := ((1 : BitVec 1) ++ f).extractLsb' 8 8) (d := ((1 : BitVec 1) ++ f).extractLsb' 0 8) us
    rw [bytes32_join, field_low, litCount32, ← hwf, List.take_length] at h
    exact h (field_msb _ _) (Nat.le_refl _)
  | hdr8Short size => cases henc; exact decode_shortHeader .w1 size []
  | hdr16Short size => cases henc; exact decode_shortHeader .w2 size []
  | hdr32Short size => cases henc; exact decode_shortHeader .w4 size []
  | hdr8Wide size => cases henc; exact decode_wideHeader .w1 size []
  | hdr16Wide size => cases henc; exact decode_wideHeader .w2 size []
  | hdr32Wide size => cases henc; exact decode_wideHeader .w4 size []
  | hdrReserved hi lo => cases henc; exact decode_reservedHeader hi lo
  | start uw fw =>
    cases henc
    exact (decodeAccess_reg true .ctrl _).trans (congrArg _ (decodeWrite_ctrlWord uw fw true))
  | config w =>
    cases w with
    | ctrl uw fw =>
      cases henc
      exact (decodeAccess_reg true .ctrl _).trans (congrArg _ (decodeWrite_ctrlWord uw fw false))
    | inLen len => cases henc; rfl
    | readOnly r v =>
      cases henc
      cases r with
      | ctrl | inLen => exact absurd hwf (by simp [wellFormed])
      | status | outLen | hdrLen | hdrW0 | hdrW1 => rfl
  | read r => cases henc; exact decodeAccess_reg false r 0
  | scanRun | scanLit | scanEnd | emitRun | emitLit | hdrBuild => cases henc

/-! ## What the decoder gives -/

/-- Settles O48: a literal has the units its field announces, and only a read-only register gets the ignored form. -/
theorem decodedIsWellFormed : Obligations.DecodedIsWellFormed := by
  intro c i hdec
  cases c with
  | seg w bs =>
    cases w with
    | w1 =>
      simp only [decode, decodeSeg, decodeSeg8] at hdec
      split_ifs at hdec <;> cases hdec
      · rfl
      · simp [wellFormed, litCount8]
    | w2 =>
      simp only [decode, decodeSeg, decodeSeg16] at hdec
      split_ifs at hdec <;> cases hdec
      · rfl
      · simp [wellFormed, litCount16]
    | w4 =>
      simp only [decode, decodeSeg, decodeSeg32] at hdec
      split_ifs at hdec <;> cases hdec
      · rfl
      · simp [wellFormed, litCount32]
  | hdr bs =>
    simp only [decode, decodeHdr] at hdec
    split_ifs at hdec <;> cases hdec <;> rfl
  | reg a =>
    simp only [decode, decodeAccess] at hdec
    split at hdec
    · cases hdec
    · split at hdec
      · cases hdec
      · rename_i r _
        cases hdec
        split
        · cases r with
          | ctrl => unfold decodeWrite; dsimp only; split <;> rfl
          | inLen | status | outLen | hdrLen | hdrW0 | hdrW1 => rfl
        · rfl

/-! ## Every field value (R46, R49, R50) -/

/-- A byte in front is the highest one. -/
theorem beValue_cons (b : Byte) (bs : List Byte) : beValue (b :: bs) = b.toNat * 256 ^ bs.length + beValue bs := by
  induction bs using List.reverseRecOn with
  | nil => simp [beValue]
  | append_singleton bs c ih =>
    rw [← List.cons_append, beValue_concat, beValue_concat, ih, List.length_append, List.length_singleton, Nat.pow_succ]
    ring

theorem beValue_two (a b : Byte) : beValue [a, b] = (a ++ b).toNat := by
  rw [← bytes16_of_bytes, bytes16_eq_be, beValue_be, Nat.mod_eq_of_lt (a ++ b).isLt]

theorem beValue_four (a b c d : Byte) : beValue [a, b, c, d] = (a ++ b ++ c ++ d).toNat := by
  rw [← bytes32_of_bytes, beValue_bytes32]

/-- The sign bit of a field tells the two ranges of its value apart (R46). -/
theorem msb_eq_false_iff_lt {n : Nat} (x : BitVec (n + 1)) : x.msb = false ↔ x.toNat < 2 ^ n := by
  rw [BitVec.msb_eq_false_iff_two_mul_lt, Nat.pow_succ]
  omega

/-- The bits below the sign bit are the value modulo the bound (R46). -/
theorem low_toNat {n : Nat} (x : BitVec (n + 1)) : (x.extractLsb' 0 n).toNat = x.toNat % 2 ^ n := by
  rw [BitVec.extractLsb'_toNat, Nat.shiftRight_zero]

/-- A field with sign bit 0 is its low bits. -/
theorem low_toNat_of_lt {n : Nat} {x : BitVec (n + 1)} (h : x.toNat < 2 ^ n) : (x.extractLsb' 0 n).toNat = x.toNat := by
  rw [low_toNat, Nat.mod_eq_of_lt h]

/-- A field with sign bit 1 stands for -K, K being what it lacks to the next power of two (R46, R48). -/
theorem litCount_of_ge {n : Nat} {x : BitVec (n + 1)} (h : 2 ^ n ≤ x.toNat) :
    2 ^ n - (x.extractLsb' 0 n).toNat = 2 ^ (n + 1) - x.toNat := by
  have hlt := x.isLt
  rw [Nat.pow_succ] at hlt ⊢
  rw [low_toNat, Nat.mod_eq_sub_mod h, Nat.mod_eq_of_lt (by omega)]
  omega

theorem msb_eq_true_iff_ge {n : Nat} (x : BitVec (n + 1)) : x.msb = true ↔ 2 ^ n ≤ x.toNat := by
  rw [← Nat.not_lt, ← msb_eq_false_iff_lt, Bool.not_eq_false]

/-- What a field f of a stream of width w, its pattern or units behind it, means (R46, R49, R50). -/
def FieldMeaning (w : Width) (bs : List Byte) (f : Nat) : Prop :=
  (f < maxLit w → 2 * widthBytes w ≤ bs.length →
    ∃ i, decode (.seg w bs) = .ok i ∧ encodedSize i = 2 * widthBytes w ∧
      expand i = (List.replicate (f + 2) ((bs.drop (widthBytes w)).take (widthBytes w))).flatten) ∧
  (maxLit w ≤ f → widthBytes w * (1 + (2 ^ (8 * widthBytes w) - f)) ≤ bs.length →
    ∃ i, decode (.seg w bs) = .ok i ∧ encodedSize i = widthBytes w * (1 + (2 ^ (8 * widthBytes w) - f)) ∧
      expand i = (bs.drop (widthBytes w)).take ((2 ^ (8 * widthBytes w) - f) * widthBytes w))

theorem fieldMeaning_w1 (a : Byte) (rest : List Byte) : FieldMeaning .w1 (a :: rest) a.toNat := by
  refine ⟨fun hrun hlen => ?_, fun hlit hlen => ?_⟩
  · match rest, hlen with
    | p :: rest, _ =>
      refine ⟨_, decode_run8 rest ((msb_eq_false_iff_lt (n := 7) a).mpr hrun), rfl, ?_⟩
      rw [expand, low_toNat_of_lt (n := 7) hrun]
      exact List.flatten_replicate_singleton.symm
  · have hk : litCount8 (a.extractLsb' 0 7) = 2 ^ 8 - a.toNat := litCount_of_ge (n := 7) hlit
    change 1 * (1 + (2 ^ 8 - a.toNat)) ≤ rest.length + 1 at hlen
    refine ⟨_, decode_lit8 rest ((msb_eq_true_iff_ge (n := 7) a).mpr hlit) (by omega), ?_, ?_⟩
    · rw [encodedSize, hk]; exact (Nat.one_mul _).symm
    · rw [expand, hk]; exact congrArg (rest.take ·) (Nat.mul_one _).symm

theorem fieldMeaning_w2 (a b : Byte) (rest : List Byte) : FieldMeaning .w2 (a :: b :: rest) (a ++ b).toNat := by
  refine ⟨fun hrun hlen => ?_, fun hlit hlen => ?_⟩
  · match rest, hlen with
    | p :: q :: rest, _ =>
      refine ⟨_, decode_run16 rest ((msb_eq_false_iff_lt (n := 15) (a ++ b)).mpr hrun), rfl, ?_⟩
      rw [expand, low_toNat_of_lt (n := 15) hrun, bytes16_of_bytes]
      rfl
  · have hk : litCount16 ((a ++ b).extractLsb' 0 15) = 2 ^ 16 - (a ++ b).toNat := litCount_of_ge (n := 15) hlit
    change 2 * (1 + (2 ^ 16 - (a ++ b).toNat)) ≤ rest.length + 1 + 1 at hlen
    refine ⟨_, decode_lit16 rest ((msb_eq_true_iff_ge (n := 15) (a ++ b)).mpr hlit) (by omega), ?_, ?_⟩
    · rw [encodedSize, hk, Nat.mul_add]; rfl
    · rw [expand, hk, Nat.mul_comm]; rfl

theorem fieldMeaning_w4 (a b c d : Byte) (rest : List Byte) :
    FieldMeaning .w4 (a :: b :: c :: d :: rest) (a ++ b ++ c ++ d).toNat := by
  refine ⟨fun hrun hlen => ?_, fun hlit hlen => ?_⟩
  · match rest, hlen with
    | p :: q :: r :: s :: rest, _ =>
      refine ⟨_, decode_run32 rest ((msb_eq_false_iff_lt (n := 31) (a ++ b ++ c ++ d)).mpr hrun), rfl, ?_⟩
      rw [expand, low_toNat_of_lt (n := 31) hrun, bytes32_of_bytes]
      rfl
  · have hk : litCount32 ((a ++ b ++ c ++ d).extractLsb' 0 31) = 2 ^ 32 - (a ++ b ++ c ++ d).toNat :=
      litCount_of_ge (n := 31) hlit
    change 4 * (1 + (2 ^ 32 - (a ++ b ++ c ++ d).toNat)) ≤ rest.length + 1 + 1 + 1 + 1 at hlen
    refine ⟨_, decode_lit32 rest ((msb_eq_true_iff_ge (n := 31) (a ++ b ++ c ++ d)).mpr hlit) (by omega), ?_, ?_⟩
    · rw [encodedSize, hk, Nat.mul_add]; rfl
    · rw [expand, hk, Nat.mul_comm]; rfl

/-- Settles O49: the W bytes of the field at each width. -/
theorem everyFieldDecodes : Obligations.EveryFieldDecodes := by
  intro w bs hlen
  cases w with
  | w1 =>
    match bs, hlen with
    | a :: rest, _ =>
      have hf : beValue ((a :: rest).take (widthBytes .w1)) = a.toNat := by
        show beValue [a] = a.toNat
        rw [beValue_cons]
        exact Nat.mul_one _
      rw [hf]
      exact fieldMeaning_w1 a rest
  | w2 =>
    match bs, hlen with
    | a :: b :: rest, _ =>
      have hf : beValue ((a :: b :: rest).take (widthBytes .w2)) = (a ++ b).toNat := beValue_two a b
      rw [hf]
      exact fieldMeaning_w2 a b rest
  | w4 =>
    match bs, hlen with
    | a :: b :: c :: d :: rest, _ =>
      have hf : beValue ((a :: b :: c :: d :: rest).take (widthBytes .w4)) = (a ++ b ++ c ++ d).toNat :=
        beValue_four a b c d
      rw [hf]
      exact fieldMeaning_w4 a b c d rest

/-! ## Big-endian values (R38) -/

/-- Writing the value of a byte sequence gives it back. -/
theorem be_beValue (bs : List Byte) : be (beValue bs) bs.length = bs := by
  induction bs using List.reverseRecOn with
  | nil => rfl
  | append_singleton bs c ih =>
    have hc := c.isLt
    have hupper : (beValue bs * 2 ^ 8 + c.toNat) >>> 8 = beValue bs := by rw [Nat.shiftRight_eq_div_pow]; omega
    have hlow : BitVec.ofNat 8 (beValue bs * 2 ^ 8 + c.toNat) = c := by
      apply BitVec.eq_of_toNat_eq
      rw [BitVec.toNat_ofNat]
      omega
    rw [beValue_concat, List.length_append, List.length_singleton, be_succ, hupper, hlow, ih]

/-- R38: each byte counts with its place. -/
theorem beValue_eq_sum (bs : List Byte) :
    beValue bs = ((List.range bs.length).map fun j => (bs.getD j 0).toNat * 2 ^ (8 * (bs.length - 1 - j))).sum := by
  induction bs with
  | nil => rfl
  | cons b bs ih =>
    have hplace : ∀ j, bs.length + 1 - 1 - (j + 1) = bs.length - 1 - j := fun j => by omega
    rw [beValue_cons, ih, List.length_cons, List.range_succ_eq_map, List.map_cons, List.sum_cons, List.map_map,
      show (256 : Nat) = 2 ^ 8 from rfl, ← Nat.pow_mul]
    congr 2
    exact List.map_congr_left fun j _ => by simp only [Function.comp_apply, List.getD_cons_succ, hplace]

/-- Settles O50: the sum over the places, and the induction from the lowest byte. -/
theorem bigEndianReproducesUnit : Obligations.BigEndianReproducesUnit := ⟨beValue_eq_sum, be_beValue⟩

/-- Settles O51: each word by running the decoder on it. -/
theorem handWordsDecode : Obligations.HandWordsDecode := by
  unfold Obligations.HandWordsDecode
  decide

end Sys2Proof.Machine
end

section
/-! SUPPORT. The round trip (R58, R59): the reference decode of a compressed file gives the input back. -/

namespace Sys2Proof.Machine

/-! ## The bounds of a field (R8) -/

theorem two_pow_eq_two_maxLit (w : Width) : 2 ^ (8 * widthBytes w) = 2 * maxLit w := by cases w <;> rfl

theorem maxRun_eq_maxLit_succ (w : Width) : maxRun w = maxLit w + 1 := by cases w <;> rfl

/-- The field of a literal of K units, read without sign (R11, R48). -/
theorem beValue_beSigned_neg {w : Width} {k : Nat} (hmin : 1 ≤ k) (hmax : k ≤ maxLit w) :
    beValue (beSigned (-(k : Int)) (widthBytes w)) = 2 ^ (8 * widthBytes w) - k := by
  have htwo := two_pow_eq_two_maxLit w
  have hmod : (-(k : Int)) % (2 ^ (8 * widthBytes w) : Nat) = ((2 ^ (8 * widthBytes w) - k : Nat) : Int) := by
    rw [← Int.add_emod_right, Int.emod_eq_of_lt (by omega) (by omega)]
    omega
  rw [beSigned, hmod, Int.toNat_natCast, beValue_be, Nat.mod_eq_of_lt (by omega)]

/-! ## One segment of a stream -/

/-- A run in front of a stream decodes to its units (R47). -/
theorem decode_segBytes_run (f : Nat → Byte) {w : Width} {l : Nat} {p : List Byte} (hmin : 2 ≤ l) (hmax : l ≤ maxRun w)
    (hp : p.length = widthBytes w) (rest : List Byte) :
    ∃ i, decode (.seg w (segBytes f w (.run l p) ++ rest)) = .ok i ∧ encodedSize i = segSize w (.run l p) ∧
      expand i = (List.replicate l p).flatten := by
  have hfield : (segBytes f w (.run l p) ++ rest).take (widthBytes w) = be (l - 2) (widthBytes w) := by
    rw [segBytes, List.append_assoc, List.take_left' (be_length _ _)]
  have hpattern : ((segBytes f w (.run l p) ++ rest).drop (widthBytes w)).take (widthBytes w) = p := by
    rw [segBytes, List.append_assoc, List.drop_left' (be_length _ _), List.take_left' hp]
  have htwo := two_pow_eq_two_maxLit w
  have hcap := maxRun_eq_maxLit_succ w
  have hvalue : beValue (be (l - 2) (widthBytes w)) = l - 2 := by rw [beValue_be, Nat.mod_eq_of_lt (by omega)]
  have hlen : (segBytes f w (.run l p) ++ rest).length = 2 * widthBytes w + rest.length := by
    rw [List.length_append, segBytes_run_length f l hp]; rfl
  have h := (everyFieldDecodes w (segBytes f w (.run l p) ++ rest) (by omega)).1
  rw [hfield, hpattern, hvalue, Nat.sub_add_cancel hmin] at h
  exact h (by omega) (by omega)

/-- A literal in front of a stream decodes to its units (R48). -/
theorem decode_segBytes_lit (f : Nat → Byte) {w : Width} (start : Nat) {k : Nat} (hmin : 1 ≤ k) (hmax : k ≤ maxLit w)
    (rest : List Byte) :
    ∃ i, decode (.seg w (segBytes f w (.lit start k) ++ rest)) = .ok i ∧ encodedSize i = segSize w (.lit start k) ∧
      expand i = bytesFrom f (start * widthBytes w) (k * widthBytes w) := by
  have hfield : (segBytes f w (.lit start k) ++ rest).take (widthBytes w) = beSigned (-(k : Int)) (widthBytes w) := by
    rw [segBytes, List.append_assoc, List.take_left' (beSigned_length _ _)]
  have hunits : ((segBytes f w (.lit start k) ++ rest).drop (widthBytes w)).take (k * widthBytes w) =
      bytesFrom f (start * widthBytes w) (k * widthBytes w) := by
    rw [segBytes, List.append_assoc, List.drop_left' (beSigned_length _ _), List.take_left' (bytesFrom_length _ _ _)]
  have htwo := two_pow_eq_two_maxLit w
  have hcount : 2 ^ (8 * widthBytes w) - (2 ^ (8 * widthBytes w) - k) = k := by omega
  have hlen : (segBytes f w (.lit start k) ++ rest).length = widthBytes w * (1 + k) + rest.length := by
    rw [List.length_append, segBytes_lit_length]; rfl
  have hlen' : widthBytes w ≤ widthBytes w * (1 + k) := Nat.le_mul_of_pos_right _ (by omega)
  have h := (everyFieldDecodes w (segBytes f w (.lit start k) ++ rest) (by omega)).2
  rw [hfield, beValue_beSigned_neg hmin hmax, hcount, hunits] at h
  exact h (by omega) (by omega)

/-- The reference decode takes one segment off a stream. -/
theorem decodeStream_append {w : Width} {code rest : List Byte} {i : Instr} (fuel : Nat) (hcode : 0 < code.length)
    (hdec : decode (.seg w (code ++ rest)) = .ok i) (hsize : encodedSize i = code.length) :
    decodeStream w (fuel + 1) (code ++ rest) = (decodeStream w fuel rest).map (expand i ++ ·) := by
  obtain ⟨b, bs, hbs⟩ : ∃ b bs, code ++ rest = b :: bs := List.exists_cons_of_length_pos (by rw [List.length_append]; omega)
  have hdrop : (b :: bs).drop (encodedSize i) = rest := by rw [← hbs, hsize, List.drop_left]
  rw [hbs] at hdec ⊢
  change decodeSeg w _ _ = .ok i at hdec
  simp only [decodeStream, hdec, hdrop]

/-! ## The whole stream -/

/-- The units of a run are the pattern, repeated. -/
theorem replicate_unit_eq_bytesFrom (f : Nat → Byte) (w : Width) (a l : Nat)
    (h : ∀ k, k < l → unitOf f w (a + k) = unitOf f w a) :
    (List.replicate l (unitOf f w a)).flatten = bytesFrom f (a * widthBytes w) (l * widthBytes w) := by
  induction l with
  | zero => rw [Nat.zero_mul]; rfl
  | succ l ih =>
    rw [List.replicate_succ', List.flatten_append, ih fun k hk => h k (by omega), List.flatten_singleton,
      Nat.succ_mul, bytesFrom_add, ← Nat.add_mul, ← h l (by omega)]
    rfl

theorem one_le_segSize (w : Width) (seg : Segment) : 1 ≤ segSize w seg := by
  have hpos := widthBytes_pos w
  cases seg with
  | run l p => show 1 ≤ 2 * widthBytes w; omega
  | lit start k => exact Nat.mul_pos hpos (by omega)

theorem length_le_traceSize (w : Width) (segs : List Segment) : segs.length ≤ traceSize w segs := by
  induction segs with
  | nil => exact Nat.le_refl 0
  | cons seg segs ih =>
    have := one_le_segSize w seg
    rw [traceSize_cons, List.length_cons]
    omega

theorem Segmented.le_nu {u : Nat → List Byte} {w : Width} {nu a : Nat} {short : Bool} {segs : List Segment}
    (h : Segmented u w nu a short segs) : a ≤ nu := by
  induction h with
  | nil => exact Nat.le_refl _
  | run _ _ _ _ ih | lit _ _ _ _ ih => exact (Nat.le_add_right _ _).trans ih

/-- The stream of a segment list decodes to the units it covers (R58). -/
theorem decodeStream_segmented {f : Nat → Byte} {w : Width} {nu a : Nat} {short : Bool} {segs : List Segment}
    (h : Segmented (unitOf f w) w nu a short segs) {fuel : Nat} (hfuel : segs.length ≤ fuel) :
    decodeStream w fuel (streamBytes f w segs) =
      some (bytesFrom f (a * widthBytes w) ((nu - a) * widthBytes w)) := by
  have hsplit {a b : Nat} (hb : a + b ≤ nu) : bytesFrom f (a * widthBytes w) ((nu - a) * widthBytes w) =
      bytesFrom f (a * widthBytes w) (b * widthBytes w) ++
        bytesFrom f ((a + b) * widthBytes w) ((nu - (a + b)) * widthBytes w) := by
    have hsum : nu - a = b + (nu - (a + b)) := by omega
    rw [hsum, Nat.add_mul, bytesFrom_add, ← Nat.add_mul]
  have hlengths := h.lengths
  induction h generalizing fuel with
  | nil =>
    rw [Nat.sub_self, Nat.zero_mul]
    cases fuel <;> rfl
  | @run a l short rest hmin hrun hend hrest ih =>
    obtain ⟨⟨hl, hmax, -⟩, hlengths⟩ := List.forall_mem_cons.mp hlengths
    obtain ⟨fuel, rfl⟩ := Nat.exists_eq_add_of_le' hfuel
    have hp := unitOf_length f w a
    obtain ⟨i, hdec, hsize, hexp⟩ := decode_segBytes_run f hl hmax hp (streamBytes f w rest)
    rw [← segBytes_run_length f l hp] at hsize
    have hcode : 0 < (segBytes f w (.run l (unitOf f w a))).length := segBytes_run_length f l hp ▸ one_le_segSize w _
    show decodeStream w (fuel + rest.length + 1) (segBytes f w (.run l (unitOf f w a)) ++ streamBytes f w rest) = _
    rw [decodeStream_append _ hcode hdec hsize, ih (Nat.le_add_left _ _) hlengths, hexp,
      replicate_unit_eq_bytesFrom f w a l hrun.units_eq, hsplit hrest.le_nu]
    rfl
  | @lit a k rest hmin hmax hquiet hrest ih =>
    obtain ⟨-, hlengths⟩ := List.forall_mem_cons.mp hlengths
    obtain ⟨fuel, rfl⟩ := Nat.exists_eq_add_of_le' hfuel
    obtain ⟨i, hdec, hsize, hexp⟩ := decode_segBytes_lit f a hmin hmax (streamBytes f w rest)
    rw [← segBytes_lit_length f w a k] at hsize
    have hcode : 0 < (segBytes f w (.lit a k)).length := segBytes_lit_length f w a k ▸ one_le_segSize w _
    show decodeStream w (fuel + rest.length + 1) (segBytes f w (.lit a k) ++ streamBytes f w rest) = _
    rw [decodeStream_append _ hcode hdec hsize, ih (Nat.le_add_left _ _) hlengths, hexp, hsplit hrest.le_nu]
    rfl

/-! ## The file -/

/-- The header the core builds decodes to the width, the length and its own size (R53, R54, R80). -/
theorem decode_headerBytes (w : Width) (fw : Bool) {len : Nat} (hlen : len < 2 ^ 32) (rest : List Byte) :
    ∃ i, decode (.hdr (headerBytes w fw len ++ rest)) = .ok i ∧
      headerInfo i = some (w, len, (headerBytes w fw len).length) := by
  unfold headerBytes
  split
  · have hsize : (BitVec.ofNat 32 len).toNat = len := Nat.mod_eq_of_lt hlen
    refine ⟨_, decode_wideHeader w _ rest, ?_⟩
    rw [← hsize]
    cases w <;> simp [wideHdr, headerInfo, wideHeader, bytes16, bytes32]
  · rename_i hwide
    have hshort : len < 2 ^ 16 := by
      simp only [wideOf, Bool.or_eq_true, decide_eq_true_eq, not_or] at hwide
      omega
    have hsize : (BitVec.ofNat 16 len).toNat = len := Nat.mod_eq_of_lt hshort
    refine ⟨_, decode_shortHeader w _ rest, ?_⟩
    rw [← hsize]
    cases w <;> simp [shortHdr, headerInfo, shortHeader, bytes16]

/-- A padded input begins with the input. -/
theorem take_bytesFrom_paddedInput (input : List Byte) {n : Nat} (hn : input.length ≤ n) :
    (bytesFrom (paddedInput input) 0 n).take input.length = input := by
  refine List.ext_getElem (by simp; omega) fun j hj hj' => ?_
  simp [bytesFrom, paddedInput, List.getElem?_eq_getElem hj']

/-- R58: a file whose header and stream decode, the stream to at least as many bytes as the header says. -/
theorem refDecode_of_parts {header stream out : List Byte} {i : Instr} {w : Width} {len : Nat}
    (hdec : decode (.hdr (header ++ stream)) = .ok i) (hinfo : headerInfo i = some (w, len, header.length))
    (hstream : decodeStream w (header ++ stream).length stream = some out) (hlen : len ≤ out.length) :
    refDecode (header ++ stream) = some (out.take len) := by
  simp only [decode] at hdec
  simp only [refDecode, hdec, hinfo, List.drop_left, hstream, if_neg (Nat.not_lt.mpr hlen)]

/-- A stream decodes to the padded units of the input. -/
theorem decodeStream_rawStream (input : List Byte) (w : Width) {fuel : Nat} (hfuel : (rawStream input w).length ≤ fuel) :
    decodeStream w fuel (rawStream input w) =
      some (bytesFrom (paddedInput input) 0 (unitCount input.length w * widthBytes w)) := by
  have hcount := length_le_traceSize w (segments (unitOf (paddedInput input) w) (unitCount input.length w) w)
  rw [← rawStream_length] at hcount
  have h := decodeStream_segmented (segmented_segments (unitOf (paddedInput input) w) (unitCount input.length w) w)
    (hcount.trans hfuel)
  rwa [Nat.zero_mul, Nat.sub_zero] at h

/-- Settles O52: the header gives width and length, the stream the padded units, of which the length keeps the input. -/
theorem roundTrip : Obligations.RoundTrip := by
  intro input uw fw stream header hlen hcomp
  unfold compressOf at hcomp
  split at hcomp
  · cases hcomp
  next w _ =>
    split at hcomp
    · cases hcomp
    · obtain ⟨rfl, rfl⟩ := Prod.mk.inj (Except.ok.inj hcomp)
      obtain ⟨i, hdec, hinfo⟩ := decode_headerBytes w fw hlen (rawStream input w)
      have hfuel : (rawStream input w).length ≤ (headerBytes w fw input.length ++ rawStream input w).length := by
        rw [List.length_append]; omega
      have hstream := decodeStream_rawStream input w hfuel
      have hreach := le_unitCount_mul input.length w
      have hlong : input.length ≤ (bytesFrom (paddedInput input) 0 (unitCount input.length w * widthBytes w)).length := by
        rwa [bytesFrom_length]
      rw [refDecode_of_parts hdec hinfo hstream hlong, take_bytesFrom_paddedInput input hreach]

end Sys2Proof.Machine
end

section
/-! SUPPORT. The segment forms and the header forms as operations (rows RUN8 to HDR32_WIDE): where they complete, where they are
refused, and their frame. -/

namespace Sys2Proof.Machine

/-! ## The segment forms (R46 to R48, R75, R76) -/

/-- A segment form is an emit in a compression of its width. -/
theorem emitForm_of_selected {s : State} {w : Width} (hp : s.phase = .scan) (hw : s.wb = w) (seg : Segment) (size : Nat)
    (bytes : List Byte) : emitForm w seg size bytes s = (emitSegment seg size bytes s).outcome := if_pos ⟨hp, hw⟩

/-- A segment form elsewhere is refused. -/
theorem emitForm_refused {s : State} {w : Width} (h : ¬ (s.phase = .scan ∧ s.wb = w)) (seg : Segment) (size : Nat)
    (bytes : List Byte) : emitForm w seg size bytes s = .refused .notSelected := if_neg h

/-- A segment form that answers a next state was selected and emitted. -/
theorem emitForm_next {s t : State} {w : Width} {seg : Segment} {size : Nat} {bytes : List Byte}
    (h : emitForm w seg size bytes s = .next t) :
    s.wb = w ∧ (emitSegment seg size bytes s).outcome = .next t := by
  unfold emitForm at h
  split at h
  next hsel => exact ⟨hsel.2, h⟩
  next => cases h

/-- A segment form in a compression of its width completes where it fits, and aborts where it does not. -/
theorem emitForm_complete {s : State} {w : Width} (hp : s.phase = .scan) (hw : s.wb = w) (seg : Segment) (size : Nat)
    (bytes : List Byte) :
    (s.outCnt + size ≤ s.llen → emitForm w seg size bytes s = .next { s with
      trace := s.trace ++ [seg], outMem := s.outMem.writeBytes s.outCnt bytes, outCnt := s.outCnt + size }) ∧
    (s.llen < s.outCnt + size →
      emitForm w seg size bytes s = .next (abort .expansionOverflow { s with trace := s.trace ++ [seg] })) := by
  rw [emitForm_of_selected hp hw]
  exact ⟨fun hfit => by rw [emitSegment_of_le hfit]; rfl, fun hover => emitSegment_outcome_of_lt hover⟩

/-- Settles O24: each run form by `emitForm_complete`. -/
theorem runFormsComplete : Obligations.RunFormsComplete := by
  rintro s i w l p bytes hp hw (⟨n, b, rfl, rfl, rfl⟩ | ⟨n, b, rfl, rfl, rfl⟩ | ⟨n, b, rfl, rfl, rfl⟩) henc <;>
    cases henc
  · exact emitForm_complete hp hw _ 2 _
  · exact emitForm_complete hp hw _ 4 _
  · exact emitForm_complete hp hw _ 8 _

/-- Settles O25: each literal form by `emitForm_complete`. -/
theorem litFormsComplete : Obligations.LitFormsComplete := by
  rintro s i w k bytes hp hw (⟨f, us, rfl, rfl⟩ | ⟨f, us, rfl, rfl⟩ | ⟨f, us, rfl, rfl⟩) henc <;> cases henc
  · exact emitForm_complete hp hw (.lit s.litStart (litCount8 f)) (1 * (1 + litCount8 f)) _
  · exact emitForm_complete hp hw (.lit s.litStart (litCount16 f)) (2 * (1 + litCount16 f)) _
  · exact emitForm_complete hp hw (.lit s.litStart (litCount32 f)) (4 * (1 + litCount32 f)) _

/-- A run field has sign bit 0: its value is that of the bits below. -/
theorem runField_toNat {n : Nat} (x : BitVec n) : ((0 : BitVec 1) ++ x).toNat = x.toNat := by
  rw [toNat_append_eq_mul_add, BitVec.ofNat_eq_ofNat, BitVec.toNat_zero, Nat.zero_mul, Nat.zero_add]

/-- A run form whose field is the big-endian form of N is EMIT_RUN(N + 2) at its width. -/
theorem emitForm_eq_emitRun {s : State} {w : Width} {n : Nat} {field p : List Byte} (hp : s.phase = .scan) (hw : s.wb = w)
    (hn : n < maxLit w) (hlen : p.length = widthBytes w) (hfield : field = be n (widthBytes w)) :
    emitForm w (.run (n + 2) p) (2 * widthBytes w) (field ++ p) s = exec (.emitRun (n + 2) p) s := by
  subst hw hfield
  have hmax : n + 2 ≤ maxRun s.wb := by rw [maxRun_eq_maxLit_succ]; omega
  rw [emitForm_of_selected hp rfl, exec_emitRun_of_legal hp ⟨Nat.le_add_left 2 n, hmax, hlen⟩, emitRun_def,
    Nat.add_sub_cancel]

/-- Settles O23: the field of each form is the big-endian form of N. -/
theorem runFormsAreEmitRun : Obligations.RunFormsAreEmitRun := by
  refine fun s hp => ⟨fun n p hw => ?_, fun n p hw => ?_, fun n p hw => ?_⟩
  · refine emitForm_eq_emitRun (field := [(0 : BitVec 1) ++ n]) hp hw n.isLt rfl ?_
    rw [← runField_toNat n]
    exact congrArg (· :: []) (BitVec.ofNat_toNat (8) ((0 : BitVec 1) ++ n)).symm
  · refine emitForm_eq_emitRun (field := bytes16 ((0 : BitVec 1) ++ n)) hp hw n.isLt rfl ?_
    rw [← runField_toNat n]
    rfl
  · refine emitForm_eq_emitRun (field := bytes32 ((0 : BitVec 1) ++ n)) hp hw n.isLt rfl ?_
    rw [← runField_toNat n]
    rfl

/-! ## The header forms (R53, R54, R81) -/

/-- An operation with a header is one of the six forms, told apart by its width and its size form. -/
theorem headerInfo_cases {i : Instr} {w : Width} {size p : Nat} (h : headerInfo i = some (w, size, p)) :
    (∃ z, i = shortHdr w z ∧ size = z.toNat ∧ p = 4) ∨ (∃ z, i = wideHdr w z ∧ size = z.toNat ∧ p = 8) := by
  cases i with
  | hdr8Short z | hdr16Short z | hdr32Short z => cases h; exact .inl ⟨z, rfl, rfl, rfl⟩
  | hdr8Wide z | hdr16Wide z | hdr32Wide z => cases h; exact .inr ⟨z, rfl, rfl, rfl⟩
  | _ => cases h

theorem encode_shortHdr (w : Width) (z : BitVec 16) : encode (shortHdr w z) = some (.hdr (shortHeader (typeOf w) z)) := by
  cases w <;> rfl

theorem encode_wideHdr (w : Width) (z : BitVec 32) : encode (wideHdr w z) = some (.hdr (wideHeader (typeOf w) z)) := by
  cases w <;> rfl

/-- A form of the 16-bit size form loads its header where it is selected. -/
theorem exec_shortHdr (w : Width) (z : BitVec 16) (s : State) :
    exec (shortHdr w z) s =
      if headerSelected w false z.toNat s then .next (loadShort (typeOf w) z s) else .refused .notSelected := by
  cases w <;> rfl

/-- A form of the 32-bit size form loads its header where it is selected. -/
theorem exec_wideHdr (w : Width) (z : BitVec 32) (s : State) :
    exec (wideHdr w z) s =
      if headerSelected w true z.toNat s then .next (loadWide (typeOf w) z s) else .refused .notSelected := by
  cases w <;> rfl

theorem headerSelected_iff (w : Width) (wide : Bool) (size : Nat) (s : State) :
    headerSelected w wide size s = true ↔
      s.phase = .scan ∧ s.wb = w ∧ wideOf s.fw s.llen = wide ∧ size = s.llen := decide_eq_true_iff

/-- HDR_BUILD is run in a compression. -/
theorem exec_hdrBuild_scan {s : State} (hp : s.phase = .scan) : exec .hdrBuild s = .next (buildHeader s) := if_pos hp

/-- Settles O32: where R80 selects the form, HDR_BUILD loads the same header. -/
theorem headerFormsComplete : Obligations.HeaderFormsComplete := by
  rintro s i w size p bytes hp hinfo henc rfl hlen hwide
  refine ⟨buildHeader s, ?_, exec_hdrBuild_scan hp, buildHeader_frame s, ?_⟩
  · obtain ⟨z, rfl, rfl, rfl⟩ | ⟨z, rfl, rfl, rfl⟩ := headerInfo_cases hinfo
    · have hsel := (headerSelected_iff s.wb false z.toNat s).mpr ⟨hp, rfl, hwide, hlen.symm⟩
      rw [exec_shortHdr, if_pos hsel, buildHeader, if_neg (by rw [hwide]; decide), hlen, BitVec.ofNat_toNat,
        BitVec.setWidth_eq]
    · have hsel := (headerSelected_iff s.wb true z.toNat s).mpr ⟨hp, rfl, hwide, hlen.symm⟩
      rw [exec_wideHdr, if_pos hsel, buildHeader, if_pos (by rw [hwide]; decide), hlen, BitVec.ofNat_toNat,
        BitVec.setWidth_eq]
  · rw [headerOf_buildHeader]
    obtain ⟨z, rfl, rfl, rfl⟩ | ⟨z, rfl, rfl, rfl⟩ := headerInfo_cases hinfo
    · rw [encode_shortHdr] at henc
      cases henc
      rw [headerBytes, buildHeader, if_neg (by rw [hwide]; decide), if_neg (by rw [hwide]; decide), hlen, BitVec.ofNat_toNat,
        BitVec.setWidth_eq]
      exact ⟨rfl, rfl, rfl⟩
    · rw [encode_wideHdr] at henc
      cases henc
      rw [headerBytes, buildHeader, if_pos (by rw [hwide]; decide), if_pos (by rw [hwide]; decide), hlen, BitVec.ofNat_toNat,
        BitVec.setWidth_eq]
      exact ⟨rfl, rfl, rfl⟩

/-! ## Operations outside their place -/

/-- A segment form in another width or outside a compression is refused. -/
theorem exec_segForm_refused {s : State} {i : Instr} {w : Width} {bytes : List Byte} (henc : encode i = some (.seg w bytes))
    (h : ¬ (s.phase = .scan ∧ s.wb = w)) : exec i s = .refused .notSelected := by
  cases i with
  | run8 | lit8 | run16 | lit16 | run32 | lit32 => cases henc; exact emitForm_refused h _ _ _
  | config c => cases c <;> cases henc
  | _ => cases henc

/-- Settles O20: each operation by the condition it asks for. -/
theorem unselectedOperationsRefused : Obligations.UnselectedOperationsRefused := by
  intro s
  refine ⟨fun h => if_neg h, fun h => if_neg h, fun h => if_neg h, fun hidle l p st k => ?_, fun hp l p h => ?_,
    fun hp st k h => ?_, fun i w bytes henc h => exec_segForm_refused henc h, fun i w size p hinfo h => ?_⟩
  · have hnot : s.phase ≠ .scan := by rw [hidle]; decide
    exact ⟨if_pos hnot, if_pos hnot, if_neg hnot⟩
  · exact (if_neg (not_not.mpr hp)).trans (if_neg h)
  · exact (if_neg (not_not.mpr hp)).trans (if_neg h)
  · obtain ⟨z, rfl, rfl, rfl⟩ | ⟨z, rfl, rfl, rfl⟩ := headerInfo_cases hinfo
    · rw [exec_shortHdr, if_neg]
      rw [headerSelected_iff]
      exact fun ⟨hp, hw, hwide, hlen⟩ => h ⟨hp, hw, hwide, hlen.symm⟩
    · rw [exec_wideHdr, if_neg]
      rw [headerSelected_iff]
      exact fun ⟨hp, hw, hwide, hlen⟩ => h ⟨hp, hw, hwide, hlen.symm⟩

/-! ## The frame of the emits (R36, R72) -/

/-- Each operation of the Segment Encoder that answers a next state is an emit of one segment, whose bytes are as many as its
size. -/
theorem exec_encoder_next {s t : State} {i : Instr} (hwf : wellFormed i = true)
    (hi : (∃ n p, i = .run8 n p) ∨ (∃ f us, i = .lit8 f us) ∨ (∃ n p, i = .run16 n p) ∨
      (∃ f us, i = .lit16 f us) ∨ (∃ n p, i = .run32 n p) ∨ (∃ f us, i = .lit32 f us) ∨
      (∃ l p, i = .emitRun l p) ∨ (∃ st k, i = .emitLit st k))
    (h : exec i s = .next t) :
    ∃ seg bytes, bytes.length = segSize s.wb seg ∧
      (emitSegment seg (segSize s.wb seg) bytes s).outcome = .next t := by
  have hform {w : Width} {seg : Segment} {bytes : List Byte} (hlen : bytes.length = segSize w seg)
      (hemit : emitForm w seg (segSize w seg) bytes s = .next t) :
      ∃ seg bytes, bytes.length = segSize s.wb seg ∧
        (emitSegment seg (segSize s.wb seg) bytes s).outcome = .next t := by
    obtain ⟨rfl, hemit⟩ := emitForm_next hemit
    exact ⟨seg, bytes, hlen, hemit⟩
  have hlit {us head : List Byte} {w : Width} {k st : Nat} (hhead : head.length = widthBytes w)
      (hus : us.length = widthBytes w * k) : (head ++ us).length = segSize w (.lit st k) := by
    rw [List.length_append, hhead, hus, segSize, Nat.mul_add, Nat.mul_one]
  obtain ⟨n, p, rfl⟩ | ⟨f, us, rfl⟩ | ⟨n, p, rfl⟩ | ⟨f, us, rfl⟩ | ⟨n, p, rfl⟩ | ⟨f, us, rfl⟩ | ⟨l, p, rfl⟩ |
    ⟨st, k, rfl⟩ := hi
  · exact hform (w := .w1) (seg := .run _ _) rfl h
  · simp only [wellFormed, beq_iff_eq] at hwf
    exact hform (w := .w1) (seg := .lit _ _) (hlit (head := [_]) rfl (hwf.trans (Nat.one_mul _).symm)) h
  · exact hform (w := .w2) (seg := .run _ _) rfl h
  · simp only [wellFormed, beq_iff_eq] at hwf
    exact hform (w := .w2) (seg := .lit _ _) (hlit rfl hwf) h
  · exact hform (w := .w4) (seg := .run _ _) rfl h
  · simp only [wellFormed, beq_iff_eq] at hwf
    exact hform (w := .w4) (seg := .lit _ _) (hlit rfl hwf) h
  · obtain ⟨hlen, hemit⟩ := exec_emit_next (.inl ⟨l, p, rfl, rfl⟩) h
    exact ⟨_, _, hlen, hemit⟩
  · obtain ⟨hlen, hemit⟩ := exec_emit_next (.inr ⟨st, k, rfl, rfl⟩) h
    exact ⟨_, _, hlen, hemit⟩

/-- Settles O27: the emit did not raise, so it recorded its segment and appended its bytes, and nothing else. -/
theorem encoderFrame : Obligations.EncoderFrame := by
  intro s t i _ hwf hi h hpt
  obtain ⟨seg, bytes, hlen, hemit⟩ := exec_encoder_next hwf hi h
  obtain ⟨hfit, rfl⟩ := emitSegment_outcome_scan hemit hpt
  refine ⟨rfl, ⟨seg, rfl, rfl⟩, hfit, fun a ha => ?_⟩
  exact Memory.read?_writeBytes_outside _ (hlen.symm ▸ ha)

/-- Settles O28: the abort by definition; every byte of OUT is that of a fresh draw. -/
theorem abortEffect : Obligations.AbortEffect := fun _ _ => ⟨rfl, rfl, rfl, fun _ => rfl⟩

end Sys2Proof.Machine
end

section
/-! SUPPORT. The frames of the operations: what each leaves alone (R18, R19, R24, R32, R36), and what a core step depends on
(R33). -/

namespace Sys2Proof.Machine

/-! ## The three decisions are core steps -/

/-- A decision that answers a next state was selected, in a compression; only SCAN_END at the end of the input. -/
theorem exec_decision_next {i : Instr} {s t : State} (hi : i = .scanRun ∨ i = .scanLit ∨ i = .scanEnd)
    (h : exec i s = .next t) : s.phase = .scan ∧ CoreStep s t ∧ (i = .scanEnd ∨ s.pos < s.nu) := by
  obtain rfl | rfl | rfl := hi
  · change execScanRun s = .next t at h
    unfold execScanRun at h
    split at h
    next hsel => cases h; exact ⟨hsel.1, coreStep_scanRun hsel.2.1 hsel.2.2, .inr hsel.2.1⟩
    next => cases h
  · change execScanLit s = .next t at h
    unfold execScanLit at h
    split at h
    next hsel => cases h; exact ⟨hsel.1, coreStep_scanLit hsel.2.1 hsel.2.2, .inr hsel.2.1⟩
    next => cases h
  · change execScanEnd s = .next t at h
    unfold execScanEnd at h
    split at h
    next hsel => cases h; exact ⟨hsel.1, coreStep_scanEnd hsel.2, .inl rfl⟩
    next => cases h

/-! ## What no operation but START and CONFIG writes -/

/-- CTRL, IN_LEN, what START latched, IN and the parameter are as before, and the trace has at most grown. -/
structure Kept (s t : State) : Prop where
  forceWide : t.forceWide = s.forceWide
  unitWidth : t.unitWidth = s.unitWidth
  inLen : t.inLen = s.inLen
  inputCap : t.inputCap = s.inputCap
  job : SameJob s t
  trace : ∃ more, t.trace = s.trace ++ more

theorem Kept.refl (s : State) : Kept s s := ⟨rfl, rfl, rfl, rfl, ⟨rfl, rfl, rfl, rfl, rfl⟩, [], (List.append_nil _).symm⟩

theorem Kept.trans {s t u : State} (h : Kept s t) (h' : Kept t u) : Kept s u := by
  obtain ⟨more, hmore⟩ := h.trace
  obtain ⟨more', hmore'⟩ := h'.trace
  exact ⟨h'.forceWide.trans h.forceWide, h'.unitWidth.trans h.unitWidth, h'.inLen.trans h.inLen,
    h'.inputCap.trans h.inputCap, h.job.trans h'.job, more ++ more', by rw [hmore', hmore, List.append_assoc]⟩

/-- What neither those fields nor the trace are part of. -/
theorem Kept.of_trace_eq {s t : State} (hfw : t.forceWide = s.forceWide) (huw : t.unitWidth = s.unitWidth)
    (hlen : t.inLen = s.inLen) (hcap : t.inputCap = s.inputCap) (hjob : SameJob s t) (htrace : t.trace = s.trace) :
    Kept s t :=
  ⟨hfw, huw, hlen, hcap, hjob, [], htrace.trans (List.append_nil _).symm⟩

theorem kept_writeSeg (seg : Segment) (s : State) : Kept s (writeSeg seg s) :=
  ⟨rfl, rfl, rfl, rfl, ⟨rfl, rfl, rfl, rfl, rfl⟩, [seg], rfl⟩

theorem kept_overflowAt (seg : Segment) (s : State) : Kept s (overflowAt seg s) :=
  ⟨rfl, rfl, rfl, rfl, ⟨rfl, rfl, rfl, rfl, rfl⟩, [seg], rfl⟩

theorem kept_takeUnit (s : State) : Kept s (takeUnit s) :=
  .of_trace_eq rfl rfl rfl rfl ⟨rfl, rfl, rfl, rfl, rfl⟩ rfl

theorem kept_advance (l : Nat) (s : State) : Kept s (advance l s) :=
  .of_trace_eq rfl rfl rfl rfl ⟨rfl, rfl, rfl, rfl, rfl⟩ rfl

theorem kept_clearLit (s : State) : Kept s (clearLit s) :=
  .of_trace_eq rfl rfl rfl rfl ⟨rfl, rfl, rfl, rfl, rfl⟩ rfl

theorem kept_buildHeader (s : State) : Kept s (buildHeader s) := by
  rw [buildHeader_frame]; exact .of_trace_eq rfl rfl rfl rfl ⟨rfl, rfl, rfl, rfl, rfl⟩ rfl

theorem kept_finish (s : State) : Kept s (finish s) := .of_trace_eq rfl rfl rfl rfl ⟨rfl, rfl, rfl, rfl, rfl⟩ rfl

theorem kept_loadHeader (len w0 w1 : Word) (s : State) : Kept s (loadHeader len w0 w1 s) :=
  .of_trace_eq rfl rfl rfl rfl ⟨rfl, rfl, rfl, rfl, rfl⟩ rfl

theorem kept_flushed (s : State) : Kept s (flushed s) := by
  obtain h0 | hpos := Nat.eq_zero_or_pos s.litCnt
  · rw [flushed_of_zero h0]; exact .refl s
  · rw [flushed_of_pos hpos]; exact (kept_writeSeg _ s).trans (kept_clearLit _)

theorem CoreStep.kept {s t : State} (h : CoreStep s t) : Kept s t := by
  cases h with
  | run => exact ((kept_flushed s).trans (kept_writeSeg _ _)).trans (kept_advance _ _)
  | runRaised => exact (kept_flushed s).trans (kept_overflowAt _ _)
  | take => exact kept_takeUnit s
  | cap => exact (kept_takeUnit s).trans (kept_flushed _)
  | capRaised => exact (kept_takeUnit s).trans (kept_overflowAt _ _)
  | done => exact ((kept_flushed s).trans (kept_buildHeader _)).trans (kept_finish _)
  | flushRaised => exact kept_overflowAt _ s

/-- An emit as an operation of its own. -/
theorem kept_emit {seg : Segment} {size : Nat} {bytes : List Byte} {s t : State}
    (h : (emitSegment seg size bytes s).outcome = .next t) : Kept s t := by
  rw [emitSegment_outcome] at h
  split at h <;> cases h <;> exact ⟨rfl, rfl, rfl, rfl, ⟨rfl, rfl, rfl, rfl, rfl⟩, [seg], rfl⟩

/-- READ notes what the host got, and nothing else (R86). -/
theorem kept_read {r : Reg} {s t : State} (h : exec (.read r) s = .next t) : Kept s t := by
  rw [exec_read] at h
  cases h
  exact .of_trace_eq rfl rfl rfl rfl ⟨rfl, rfl, rfl, rfl, rfl⟩ rfl

/-- The header forms load the header registers where they are selected. -/
theorem headerForm_next {i : Instr} {x : Width × Nat × Nat} {s t : State} (hi : headerInfo i = some x)
    (h : exec i s = .next t) : ∃ len w0 w1, t = loadHeader len w0 w1 s := by
  obtain ⟨w, size, p⟩ := x
  obtain ⟨z, rfl, -, -⟩ | ⟨z, rfl, -, -⟩ := headerInfo_cases hi
  · rw [exec_shortHdr] at h
    split at h <;> cases h
    exact ⟨_, _, _, rfl⟩
  · rw [exec_wideHdr] at h
    split at h <;> cases h
    exact ⟨_, _, _, rfl⟩

theorem kept_decision {i : Instr} {s t : State} (hi : i = .scanRun ∨ i = .scanLit ∨ i = .scanEnd)
    (h : exec i s = .next t) : Kept s t := by
  obtain ⟨-, hcore, -⟩ := exec_decision_next hi h
  exact hcore.kept

/-- No operation but START and CONFIG writes CTRL, IN_LEN, what START latched, IN or the parameter, or shortens the trace. -/
theorem exec_kept {i : Instr} {s t : State} (h : exec i s = .next t) (hstart : ∀ uw fw, i ≠ .start uw fw)
    (hconfig : ∀ c, i ≠ .config c) : Kept s t := by
  have hheader {x : Width × Nat × Nat} (hi : headerInfo i = some x) : Kept s t := by
    obtain ⟨len, w0, w1, rfl⟩ := headerForm_next hi h
    exact kept_loadHeader len w0 w1 s
  cases i with
  | run8 | lit8 | run16 | lit16 | run32 | lit32 => exact kept_emit (emitForm_next h).2
  | hdr8Short | hdr16Short | hdr32Short | hdr8Wide | hdr16Wide | hdr32Wide => exact hheader rfl
  | hdrReserved => cases h
  | start uw fw => exact absurd rfl (hstart uw fw)
  | config c => exact absurd rfl (hconfig c)
  | read => exact kept_read h
  | scanRun => exact kept_decision (.inl rfl) h
  | scanLit => exact kept_decision (.inr (.inl rfl)) h
  | scanEnd => exact kept_decision (.inr (.inr rfl)) h
  | emitRun => exact kept_emit (exec_emitRun_next h).2
  | emitLit => exact kept_emit (exec_emitLit_next h)
  | hdrBuild => rw [exec_hdrBuild_next h]; exact kept_buildHeader s

/-- CONFIG writes CTRL or IN_LEN, and nothing else (R84). -/
theorem exec_config_frame {c : ConfigWrite} {s t : State} (h : exec (.config c) s = .next t) :
    t = { s with forceWide := t.forceWide, unitWidth := t.unitWidth, inLen := t.inLen } := by
  obtain hb | hb := Bool.eq_false_or_eq_true s.busy
  · rw [exec_config_busy c hb] at h; cases h; rfl
  · cases c with
    | ctrl uw fw => rw [exec_config_ctrl_idle uw fw hb] at h; cases h; rfl
    | inLen len => rw [exec_config_inLen_idle len hb] at h; cases h; rfl
    | readOnly r v => rw [exec_config_readOnly r v s] at h; cases h; rfl

/-- START writes neither IN nor the parameter. -/
theorem exec_start_frame {uw : Byte} {fw : Bool} {s t : State} (h : exec (.start uw fw) s = .next t) :
    t.inMem = s.inMem ∧ t.inputCap = s.inputCap := by
  cases hb : s.busy with
  | true => rw [exec_start_busy uw fw hb] at h; cases h; exact ⟨rfl, rfl⟩
  | false => rw [exec_start_idle uw fw hb] at h; cases h; simp

/-- IN and the parameter are no operation's to write. -/
theorem exec_inMem_inputCap {i : Instr} {s t : State} (h : exec i s = .next t) :
    t.inMem = s.inMem ∧ t.inputCap = s.inputCap := by
  by_cases hstart : ∃ uw fw, i = .start uw fw
  · obtain ⟨uw, fw, rfl⟩ := hstart
    exact exec_start_frame h
  · by_cases hconfig : ∃ c, i = .config c
    · obtain ⟨c, rfl⟩ := hconfig
      rw [exec_config_frame h]
      exact ⟨rfl, rfl⟩
    · have hkept := exec_kept h (fun uw fw hi => hstart ⟨uw, fw, hi⟩) fun c hi => hconfig ⟨c, hi⟩
      exact ⟨hkept.job.inMem, hkept.inputCap⟩

/-- Settles O34: START, CONFIG and all the other operations. -/
theorem noOperationWritesIn : Obligations.NoOperationWritesIn := fun _ _ _ h => (exec_inMem_inputCap h).1

/-- READ, CONFIG and the header operations write what the host sees of the block only. -/
theorem exec_host_frame {i : Instr} {s t : State}
    (hi : (∃ r, i = .read r) ∨ (∃ c, i = .config c) ∨ i = .hdrBuild ∨ ∃ x, headerInfo i = some x) (h : exec i s = .next t) :
    t = { s with forceWide := t.forceWide, unitWidth := t.unitWidth, inLen := t.inLen, rdata := t.rdata,
                 doneSeen := t.doneSeen, hdrLen := t.hdrLen, hdrW0 := t.hdrW0, hdrW1 := t.hdrW1 } := by
  obtain ⟨r, rfl⟩ | ⟨c, rfl⟩ | rfl | ⟨x, hx⟩ := hi
  · rw [exec_read] at h; cases h; rfl
  · rw [exec_config_frame h]
  · rw [exec_hdrBuild_next h, buildHeader_frame]
  · obtain ⟨len, w0, w1, rfl⟩ := headerForm_next hx h
    rfl

/-- Settles O35: the frames of CONFIG, of the operations besides START and CONFIG, and of those that write no datapath
register. -/
theorem registerWriters : Obligations.RegisterWriters := by
  intro i s t h
  refine ⟨fun hstart hconfig => ?_, fun hstart => ?_, fun hi => ?_⟩
  · have hkept := exec_kept h hstart hconfig
    exact ⟨hkept.forceWide, hkept.unitWidth, hkept.inLen⟩
  · by_cases hconfig : ∃ c, i = .config c
    · obtain ⟨c, rfl⟩ := hconfig
      rw [exec_config_frame h]
      exact ⟨rfl, rfl, rfl, rfl, [], (List.append_nil _).symm⟩
    · have hkept := exec_kept h hstart fun c hi => hconfig ⟨c, hi⟩
      exact ⟨hkept.job.wb, hkept.job.fw, hkept.job.llen, hkept.job.nu, hkept.trace⟩
  · rw [exec_host_frame hi h]
    exact ⟨rfl, rfl, rfl, rfl, rfl, rfl, rfl, rfl, rfl, rfl, rfl, rfl, rfl, rfl, rfl, rfl, rfl⟩

/-! ## The frame of the decisions (R36, R63 to R65) -/

/-- What a piece of a core step that does not raise writes: the cursor, the pending literal, the trace, and OUT between the old
and the new OUT_CNT, within LLEN. -/
structure Appends (s t : State) : Prop where
  frame : t = { s with pos := t.pos, litStart := t.litStart, litCnt := t.litCnt, outCnt := t.outCnt, trace := t.trace,
                       outMem := t.outMem }
  mono : s.outCnt ≤ t.outCnt
  room : s.outCnt ≤ s.llen → t.outCnt ≤ s.llen
  outside : ∀ a, a < s.outCnt ∨ t.outCnt ≤ a → t.outMem.read? a = s.outMem.read? a

theorem Appends.trans {s t u : State} (h : Appends s t) (h' : Appends t u) : Appends s u where
  frame := by
    rw [h'.frame, h.frame]
  mono := h.mono.trans h'.mono
  room := by
    have hllen : t.llen = s.llen := by rw [h.frame]
    exact fun hs => hllen ▸ h'.room (hllen ▸ h.room hs)
  outside := fun a ha => by
    have hmono := h.mono
    have hmono' := h'.mono
    rw [h'.outside a (by omega), h.outside a (by omega)]

/-- A piece that leaves OUT and OUT_CNT alone. -/
theorem appends_of_out_eq {s t : State} (hframe : t = { s with pos := t.pos, litStart := t.litStart, litCnt := t.litCnt }) :
    Appends s t := by
  rw [hframe]
  exact ⟨rfl, Nat.le_refl _, id, fun _ _ => rfl⟩

theorem appends_writeSeg {seg : Segment} {s : State} (hp : UnitPattern s.wb seg) (hfit : Fits seg s) :
    Appends s (writeSeg seg s) :=
  ⟨rfl, Nat.le_add_right _ _, fun _ => hfit,
    fun _ ha => Memory.read?_writeBytes_outside _ (segBytes_length (inp s) hp ▸ ha)⟩

theorem appends_flushed {s : State} (hpend : PendingFits s) : Appends s (flushed s) := by
  obtain h0 | hpos := Nat.eq_zero_or_pos s.litCnt
  · rw [flushed_of_zero h0]; exact appends_of_out_eq rfl
  · rw [flushed_of_pos hpos]
    exact (appends_writeSeg (unitPattern_litSeg _ s) (hpend hpos)).trans (appends_of_out_eq rfl)

/-- A core step that does not raise appends to OUT, and at the end of the compression the flags and results follow. -/
theorem CoreStep.appends {s t : State} (h : CoreStep s t) (hp : s.phase = .scan) (he : t.err ≠ 2) :
    (t.phase = .scan ∧ Appends s t) ∨
      (s.pos = s.nu ∧ Appends s (flushed s) ∧ t = finish (buildHeader (flushed s))) := by
  cases h with
  | run hlt ht hpend hfit =>
    have hpat : UnitPattern (flushed s).wb (runSeg s) := by rw [flushed_wb]; exact unitPattern_runSeg s
    exact .inl ⟨(flushed_phase s).trans hp,
      ((appends_flushed hpend).trans (appends_writeSeg hpat hfit)).trans (appends_of_out_eq rfl)⟩
  | take => exact .inl ⟨hp, appends_of_out_eq rfl⟩
  | cap hlt ht hcap hpend =>
    exact .inl ⟨(flushed_phase _).trans hp, (appends_of_out_eq rfl).trans (appends_flushed hpend)⟩
  | done hend hpend => exact .inr ⟨hend, appends_flushed hpend, rfl⟩
  | runRaised | capRaised | flushRaised => exact absurd rfl he

/-- Bytes of OUT outside what was appended read as before. -/
theorem Appends.outByte {s t : State} (h : Appends s t) {a : Nat} (ha : a < s.outCnt ∨ t.outCnt ≤ a) :
    outByte t a = outByte s a := by
  have hdraw : t.outDraw = s.outDraw := by rw [h.frame]
  have hstale : t.outStale = s.outStale := by rw [h.frame]
  rw [Machine.outByte, Machine.outByte, h.outside a ha, hdraw, hstale]

/-- Settles O36: by `CoreStep.appends`, the end adding flags, results and header. -/
theorem scanFrame : Obligations.ScanFrame := by
  intro i s t hi hroom h he
  obtain ⟨hp, hcore, hsel⟩ := exec_decision_next hi h
  obtain ⟨-, happ⟩ | ⟨hend, happ, rfl⟩ := hcore.appends hp he
  · have hllen : t.llen = s.llen := by rw [happ.frame]
    refine ⟨?_, happ.mono, hllen ▸ happ.room hroom, fun a ha => happ.outByte ha, fun _ => ?_⟩ <;> rw [happ.frame]
    exact ⟨rfl, rfl, rfl, rfl, rfl, rfl, rfl, rfl⟩
  · refine ⟨?_, ?_, ?_, fun a ha => ?_, fun hnot => ?_⟩
    · rw [buildHeader_frame, happ.frame]; rfl
    · simpa using happ.mono
    · simpa using happ.room hroom
    · rw [← happ.outByte (by simpa using ha)]; simp [outByte]
    · obtain rfl | hlt := hsel
      · simp at hnot
      · exact absurd hend hlt.ne

end Sys2Proof.Machine
end

section
/-! SUPPORT. What a core step depends on (R32, R33, R87): two states with the same registers and the same IN below LLEN, taken
through the pieces of a core step side by side. -/

namespace Sys2Proof.Machine

/-! ## What two such states have in common -/

section
variable {s t : State} (h : SameToCore s t)
include h

theorem SameToCore.pos : t.pos = s.pos := by rw [h.1]
theorem SameToCore.nu : t.nu = s.nu := by rw [h.1]
theorem SameToCore.wb : t.wb = s.wb := by rw [h.1]
theorem SameToCore.llen : t.llen = s.llen := by rw [h.1]
theorem SameToCore.outCnt : t.outCnt = s.outCnt := by rw [h.1]
theorem SameToCore.litCnt : t.litCnt = s.litCnt := by rw [h.1]
theorem SameToCore.litStart : t.litStart = s.litStart := by rw [h.1]
theorem SameToCore.phase : t.phase = s.phase := by rw [h.1]

/-- The padded input looks at IN below LLEN only (R34). -/
theorem SameToCore.inp : inp t = inp s := by
  funext x
  obtain hlt | hge := Nat.lt_or_ge x s.llen
  · rw [inp_of_lt hlt, inp_of_lt (h.llen.symm ▸ hlt), h.2 x hlt]
  · rw [inp_of_le hge, inp_of_le (h.llen.symm ▸ hge)]

theorem SameToCore.unit : unit t = unit s := by
  funext i
  rw [Machine.unit, Machine.unit, h.inp, h.wb]

theorem SameToCore.trigger : trigger t = trigger s := by
  rw [Machine.trigger, Machine.trigger, h.unit, h.wb, h.nu, h.pos, h.litCnt]

theorem SameToCore.runLen : runLen t = runLen s := by
  rw [Machine.runLen, Machine.runLen, h.unit, h.wb, h.nu, h.pos, h.litCnt]

theorem SameToCore.runSeg : runSeg t = runSeg s := by rw [Machine.runSeg, Machine.runSeg, h.runLen, h.unit, h.pos]

theorem SameToCore.litSeg : litSeg t = litSeg s := by rw [Machine.litSeg, Machine.litSeg, h.litStart, h.litCnt]

theorem SameToCore.fits_iff (seg : Segment) : Fits seg t ↔ Fits seg s := by
  rw [Fits, Fits, h.outCnt, h.wb, h.llen]

theorem SameToCore.pendingFits_iff : PendingFits t ↔ PendingFits s := by
  rw [PendingFits, PendingFits, h.litCnt, h.litSeg, h.fits_iff]

/-- The same operation is selected (R56, R87). -/
theorem SameToCore.selectOp : selectOp t = selectOp s := by
  rw [Machine.selectOp, Machine.selectOp, h.pos, h.nu, h.trigger]

end

/-! ## The pieces side by side -/

/-- The traces of two states grow by the same segments, and each byte of OUT becomes the same known value in both or is left
alone in both. -/
def SameGrowth (s t s' t' : State) : Prop :=
  (∃ more, s'.trace = s.trace ++ more ∧ t'.trace = t.trace ++ more) ∧
  ∀ a, t'.outMem.read? a = s'.outMem.read? a ∨
    s'.outMem.read? a = s.outMem.read? a ∧ t'.outMem.read? a = t.outMem.read? a

/-- The model's draws are left alone in both. -/
def DrawsKept (s t s' t' : State) : Prop :=
  s'.draws = s.draws ∧ s'.outStale = s.outStale ∧ t'.outStale = t.outStale ∧ s'.outDraw = s.outDraw ∧
    t'.draws = t.draws ∧ t'.outDraw = t.outDraw

/-- A piece of a core step taken on two states the core cannot tell apart. -/
structure Alike (s t s' t' : State) : Prop where
  same : SameToCore s' t'
  growth : SameGrowth s t s' t'
  draws : DrawsKept s t s' t'

theorem Alike.refl {s t : State} (h : SameToCore s t) : Alike s t s t :=
  ⟨h, ⟨⟨[], (List.append_nil _).symm, (List.append_nil _).symm⟩, fun _ => .inr ⟨rfl, rfl⟩⟩, rfl, rfl, rfl, rfl, rfl, rfl⟩

theorem SameGrowth.trans {s t s1 t1 s2 t2 : State} (h : SameGrowth s t s1 t1) (h' : SameGrowth s1 t1 s2 t2) :
    SameGrowth s t s2 t2 := by
  obtain ⟨⟨more, hs, ht⟩, hout⟩ := h
  obtain ⟨⟨more', hs', ht'⟩, hout'⟩ := h'
  refine ⟨⟨more ++ more', by rw [hs', hs, List.append_assoc], by rw [ht', ht, List.append_assoc]⟩, fun a => ?_⟩
  obtain heq | ⟨hsa, hta⟩ := hout' a
  · exact .inl heq
  · rw [hsa, hta]
    exact hout a

theorem Alike.trans {s t s1 t1 s2 t2 : State} (h : Alike s t s1 t1) (h' : Alike s1 t1 s2 t2) : Alike s t s2 t2 := by
  obtain ⟨hd1, hd2, hd3, hd4, hd5, hd6⟩ := h.draws
  obtain ⟨hd1', hd2', hd3', hd4', hd5', hd6'⟩ := h'.draws
  exact ⟨h'.same, h.growth.trans h'.growth, hd1'.trans hd1, hd2'.trans hd2, hd3'.trans hd3, hd4'.trans hd4,
    hd5'.trans hd5, hd6'.trans hd6⟩

/-- A segment written at the same OUT_CNT, of the same bytes. -/
theorem alike_writeSeg {s t : State} (h : SameToCore s t) (seg : Segment) :
    Alike s t (writeSeg seg s) (writeSeg seg t) where
  same := ⟨by rw [h.1]; rfl, h.2⟩
  growth := by
    refine ⟨⟨[seg], rfl, rfl⟩, fun a => ?_⟩
    show (t.outMem.writeBytes t.outCnt (segBytes (inp t) t.wb seg)).read? a =
        (s.outMem.writeBytes s.outCnt (segBytes (inp s) s.wb seg)).read? a ∨
      (s.outMem.writeBytes s.outCnt (segBytes (inp s) s.wb seg)).read? a = s.outMem.read? a ∧
        (t.outMem.writeBytes t.outCnt (segBytes (inp t) t.wb seg)).read? a = t.outMem.read? a
    rw [h.inp, h.wb, h.outCnt, Memory.read?_writeBytes, Memory.read?_writeBytes]
    split
    · exact .inl rfl
    · exact .inr ⟨rfl, rfl⟩
  draws := ⟨rfl, rfl, rfl, rfl, rfl, rfl⟩

/-- A piece that touches neither the trace nor OUT nor the draws. -/
theorem alike_of_untouched {s t s' t' : State} (hsame : SameToCore s' t') (hs : s'.trace = s.trace ∧ s'.outMem = s.outMem)
    (ht : t'.trace = t.trace ∧ t'.outMem = t.outMem) (hdraws : DrawsKept s t s' t') : Alike s t s' t' := by
  obtain ⟨hst, hso⟩ := hs
  obtain ⟨htt, hto⟩ := ht
  exact ⟨hsame, ⟨⟨[], by rw [hst, List.append_nil], by rw [htt, List.append_nil]⟩,
    fun a => .inr ⟨by rw [hso], by rw [hto]⟩⟩, hdraws⟩

theorem alike_clearLit {s t : State} (h : SameToCore s t) : Alike s t (clearLit s) (clearLit t) :=
  alike_of_untouched ⟨by rw [h.1]; rfl, h.2⟩ ⟨rfl, rfl⟩ ⟨rfl, rfl⟩ ⟨rfl, rfl, rfl, rfl, rfl, rfl⟩

theorem alike_advance {s t : State} (h : SameToCore s t) (l : Nat) : Alike s t (advance l s) (advance l t) :=
  alike_of_untouched ⟨by rw [h.1]; rfl, h.2⟩ ⟨rfl, rfl⟩ ⟨rfl, rfl⟩ ⟨rfl, rfl, rfl, rfl, rfl, rfl⟩

theorem alike_takeUnit {s t : State} (h : SameToCore s t) : Alike s t (takeUnit s) (takeUnit t) :=
  alike_of_untouched ⟨by rw [h.1]; rfl, h.2⟩ ⟨rfl, rfl⟩ ⟨rfl, rfl⟩ ⟨rfl, rfl, rfl, rfl, rfl, rfl⟩

theorem alike_finish {s t : State} (h : SameToCore s t) : Alike s t (finish s) (finish t) :=
  alike_of_untouched ⟨by rw [h.1]; rfl, h.2⟩ ⟨rfl, rfl⟩ ⟨rfl, rfl⟩ ⟨rfl, rfl, rfl, rfl, rfl, rfl⟩

theorem alike_loadHeader {s t : State} (h : SameToCore s t) (len w0 w1 : Word) :
    Alike s t (loadHeader len w0 w1 s) (loadHeader len w0 w1 t) :=
  alike_of_untouched ⟨by rw [h.1]; rfl, h.2⟩ ⟨rfl, rfl⟩ ⟨rfl, rfl⟩ ⟨rfl, rfl, rfl, rfl, rfl, rfl⟩

theorem alike_buildHeader {s t : State} (h : SameToCore s t) : Alike s t (buildHeader s) (buildHeader t) := by
  have hfw : t.fw = s.fw := by rw [h.1]
  unfold buildHeader
  rw [hfw, h.llen, h.wb]
  split
  · exact alike_loadHeader h _ _ _
  · exact alike_loadHeader h _ _ _

theorem alike_flushed {s t : State} (h : SameToCore s t) : Alike s t (flushed s) (flushed t) := by
  obtain h0 | hpos := Nat.eq_zero_or_pos s.litCnt
  · rw [flushed_of_zero h0, flushed_of_zero (h.litCnt.trans h0)]
    exact .refl h
  · rw [flushed_of_pos hpos, flushed_of_pos (h.litCnt.symm ▸ hpos), h.litSeg]
    have hwrite := alike_writeSeg h (litSeg s)
    exact hwrite.trans (alike_clearLit hwrite.same)

/-! ## The core step -/

/-- What O37 asks of the two next states besides the operation: as `Alike`, but an abort forgets OUT in both. -/
def AlikeOrForgotten (s t s' t' : State) : Prop :=
  SameToCore s' t' ∧ SameGrowth s t s' t' ∧
    (DrawsKept s t s' t' ∨
      s'.draws = s.draws + 1 ∧ s'.outStale = [] ∧ t'.outStale = [] ∧ s'.outDraw = s.draws ∧ t'.draws = t.draws + 1 ∧
        t'.outDraw = t.draws)

theorem Alike.orForgotten {s t s' t' : State} (h : Alike s t s' t') : AlikeOrForgotten s t s' t' :=
  ⟨h.same, h.growth, .inl h.draws⟩

/-- The abort at a segment that does not fit makes every byte of OUT unknown in both. -/
theorem Alike.overflowAt {s t s1 t1 : State} (h : Alike s t s1 t1) (seg : Segment) :
    AlikeOrForgotten s t (overflowAt seg s1) (overflowAt seg t1) := by
  obtain ⟨hd1, -, -, -, hd5, -⟩ := h.draws
  obtain ⟨⟨more, hs, ht⟩, -⟩ := h.growth
  refine ⟨⟨?_, h.same.2⟩, ⟨⟨more ++ [seg], ?_, ?_⟩, fun _ => .inl rfl⟩,
    .inr ⟨congrArg (· + 1) hd1, rfl, rfl, hd1, congrArg (· + 1) hd5, hd5⟩⟩
  · rw [h.same.1]; rfl
  · rw [← List.append_assoc, ← hs]; rfl
  · rw [← List.append_assoc, ← ht]; rfl

/-- A core step of one state is a core step of every state the core cannot tell from it, alike in what it leaves. -/
theorem CoreStep.alike {s t s' : State} (h : SameToCore s t) (hcore : CoreStep s s') :
    ∃ t', CoreStep t t' ∧ AlikeOrForgotten s t s' t' := by
  have hflush := alike_flushed h
  have htake := alike_takeUnit h
  have hsel : s.pos < s.nu → t.pos < t.nu := fun hlt => by rwa [h.pos, h.nu]
  cases hcore with
  | run hlt ht hpend hfit =>
    refine ⟨_, .run (hsel hlt) (h.trigger.trans ht) (h.pendingFits_iff.mpr hpend) ?_, ?_⟩
    · rw [h.runSeg]; exact (hflush.same.fits_iff _).mpr hfit
    · rw [h.runSeg, h.runLen]
      have hwrite := hflush.trans (alike_writeSeg hflush.same (Machine.runSeg s))
      exact (hwrite.trans (alike_advance hwrite.same _)).orForgotten
  | runRaised hlt ht hpend hover =>
    refine ⟨_, .runRaised (hsel hlt) (h.trigger.trans ht) (h.pendingFits_iff.mpr hpend) ?_, ?_⟩
    · rw [h.runSeg]; exact mt (hflush.same.fits_iff _).mp hover
    · rw [h.runSeg]; exact hflush.overflowAt _
  | take hlt ht hcap =>
    exact ⟨_, .take (hsel hlt) (h.trigger.trans ht) (by rwa [h.litCnt, h.wb]), htake.orForgotten⟩
  | cap hlt ht hcap hpend =>
    exact ⟨_, .cap (hsel hlt) (h.trigger.trans ht) (by rwa [h.litCnt, h.wb]) (htake.same.pendingFits_iff.mpr hpend),
      (htake.trans (alike_flushed htake.same)).orForgotten⟩
  | capRaised hlt ht hcap hover =>
    refine ⟨_, .capRaised (hsel hlt) (h.trigger.trans ht) (by rwa [h.litCnt, h.wb])
      (mt htake.same.pendingFits_iff.mp hover), ?_⟩
    rw [htake.same.litSeg]
    exact htake.overflowAt _
  | done hend hpend =>
    have hbuild := hflush.trans (alike_buildHeader hflush.same)
    exact ⟨_, .done (by rwa [h.pos, h.nu]) (h.pendingFits_iff.mpr hpend),
      (hbuild.trans (alike_finish hbuild.same)).orForgotten⟩
  | flushRaised hsel' hover =>
    refine ⟨_, .flushRaised ?_ (mt h.pendingFits_iff.mp hover), ?_⟩
    · rwa [h.pos, h.nu, h.trigger]
    · rw [h.litSeg]; exact (Alike.refl h).overflowAt _

/-- Settles O37: the same operation is selected, and `CoreStep.alike` gives its step on the other state. -/
theorem stepReadsOnlyInputBelowLlen : Obligations.StepReadsOnlyInputBelowLlen := by
  intro s t s' h hp hexec
  obtain ⟨t', hcore, hsame, ⟨htrace, hout⟩, hdraws⟩ := (coreStep_of_exec hp hexec).alike h
  exact ⟨h.selectOp, t', exec_of_coreStep (h.phase.trans hp) hcore, hsame, htrace, hout, hdraws⟩

end Sys2Proof.Machine
end

section
/-! SUPPORT. The host's side (R31, R85, R91, R94, R103 to R109, I4, I6): reset, START and OUT over it, the moves on the byte
spaces, the cap, and which operation a step runs. -/

namespace Sys2Proof.Machine

/-! ## Reset (R31, R103) -/

theorem step_reset {s : State} {q : List HostMove} (hslot : s.slot = none) (hq : s.hostq = .reset :: q) :
    step s = .next (hostReset (withHostq q s)) := step_move hslot hq

/-- The host reads 0 from every register right after reset, at power-on and over any state. -/
theorem regValue_reset (r : Reg) : regValue State.reset r = 0 := by cases r <;> rfl

theorem regValue_hostReset (s : State) (r : Reg) : regValue (hostReset s) r = 0 :=
  (show regValue (hostReset s) r = regValue State.reset r by cases r <;> rfl).trans (regValue_reset r)

/-- Every byte of OUT is that of a fresh draw after a reset. -/
theorem outByte_hostReset (s : State) (a : Nat) : outByte (hostReset s) a = Config.outByte s.draws a := rfl

/-! ## START and what it leaves of OUT (R31, R36, I6) -/

/-- START on a legal width, after a compression that ended with success: a byte below OUT_CNT that the host has not stored
since is forgotten. -/
theorem start_forgets {s t : State} {uw : Byte} {fw : Bool} {w : Width} (hb : s.busy = false)
    (huw : uw.toNat = 8 * widthBytes w) (hexec : exec (.start uw fw) s = .next t) (he : s.err = 0) {a : Nat}
    (ha : a < s.outCnt) (hhost : s.hostOut.read? a = none) :
    t.outMem.read? a = none ∧ outByte t a = Config.outByte s.draws a := by
  rw [exec_start_legal hb (legalWidth_of_toNat huw) hexec]
  exact outByte_staleOut_forget (s := beforeLatch uw fw s) he ha hhost

/-- START on a legal width keeps every other byte of OUT. -/
theorem start_keeps {s t : State} {uw : Byte} {fw : Bool} {w : Width} (hb : s.busy = false)
    (huw : uw.toNat = 8 * widthBytes w) (hexec : exec (.start uw fw) s = .next t) {a : Nat}
    (h : s.outCnt ≤ a ∨ s.hostOut.read? a ≠ none ∧ s.outMem.read? a ≠ none) :
    t.outMem.read? a = s.outMem.read? a ∧ outByte t a = outByte s a := by
  have hsome : s.outCnt ≤ a ∨ (s.hostOut.read? a).isSome = true ∧ (s.outMem.read? a).isSome = true :=
    h.imp_right fun ⟨hhost, hmem⟩ => ⟨Option.isSome_iff_ne_none.mpr hhost, Option.isSome_iff_ne_none.mpr hmem⟩
  rw [exec_start_legal hb (legalWidth_of_toNat huw) hexec]
  refine ⟨?_, outByte_staleOut_keep (s := beforeLatch uw fw s) hsome⟩
  rw [started, beforeLatch, latch_outMem, staleOut_outMem, Memory.read?_keep]
  refine if_pos ?_
  obtain hge | ⟨hhost, -⟩ := hsome
  · simp [hge]
  · simp [hhost]

/-- Settles O59: what START keeps and what it forgets. -/
theorem startAndOut : Obligations.StartAndOut :=
  fun _ _ _ _ _ hb huw hexec _ => ⟨start_keeps hb huw hexec, fun he ha hhost => start_forgets hb huw hexec he ha hhost⟩

/-- Settles O1: the reset state and the state after a reset by definition, START by `start_forgets`. -/
theorem resetValues : Obligations.ResetValues := by
  refine ⟨fun t ht => ?_, fun s q hslot hq => ⟨_, step_reset hslot hq, rfl, outByte_hostReset _⟩,
    fun s t uw fw w hb huw hexec he a ha hhost => start_forgets hb huw hexec he ha hhost⟩
  obtain rfl | ⟨s, q, hslot, hq, hstep⟩ := ht
  · refine ⟨regValue_reset, ?_⟩
    exact ⟨rfl, rfl, rfl, rfl, rfl, rfl, rfl, rfl, rfl, rfl, rfl, rfl, rfl, rfl, rfl, rfl, rfl, rfl, rfl, rfl, 0,
      fun _ => rfl⟩
  · rw [step_reset hslot hq] at hstep
    cases hstep
    refine ⟨regValue_hostReset _, ?_⟩
    exact ⟨rfl, rfl, rfl, rfl, rfl, rfl, rfl, rfl, rfl, rfl, rfl, rfl, rfl, rfl, rfl, rfl, rfl, rfl, rfl, rfl, s.draws,
      outByte_hostReset _⟩

/-- A CTRL write with bit 0 = 1 is START of its two fields (R18). -/
theorem decodeWrite_ctrl_of_bit0_true {v : Word} (h : v.getLsbD 0 = true) :
    decodeWrite .ctrl v = .start (BitVec.ofNat 8 (v.toNat / 256)) (v.getLsbD 1) := by
  rw [decodeWrite, if_pos h, extractLsb'_unitWidth_eq_ofNat]

/-- Settles O6: the decoding by bit 0, the effect by the latch. -/
theorem startLatches : Obligations.StartLatches := by
  refine ⟨fun v hbit => ?_, fun s uw fw w hb huw => ?_⟩
  · rw [decodeAccess_ctrlWrite, decodeWrite_ctrl_of_bit0_true hbit]
  · have hw := legalWidth_of_toNat huw
    refine ⟨hw, ?_⟩
    rw [exec_start_idle uw fw hb, startScan_legal hw]
    rfl

/-- Settles O7: the abort of R97 with ERR = 1. -/
theorem startRejectsIllegalWidth : Obligations.StartRejectsIllegalWidth := by
  intro s uw fw hb h8 h16 h32
  have hw : legalWidth uw = none := by rw [legalWidth, if_neg h8, if_neg h16, if_neg h32]
  rw [exec_start_idle uw fw hb, startScan_illegal hw]
  rfl

/-- Settles O8: START while BUSY = 1 changes nothing. -/
theorem startWhileBusyLost : Obligations.StartWhileBusyLost := fun _ uw fw hb => exec_start_busy uw fw hb

/-! ## The host's moves on IN and OUT (R91, R105 to R107) -/

/-- A byte after a sequence was written to a space: the byte of the sequence inside, the byte there before outside. -/
theorem getD_read?_writeBytes (m : Memory) (off : Nat) (bytes : List Byte) (a : Nat) (free : Byte) :
    ((m.writeBytes off bytes).read? a).getD free =
      if off ≤ a ∧ a < off + bytes.length then bytes.getD (a - off) 0 else (m.read? a).getD free := by
  rw [Memory.read?_writeBytes]
  split
  next hin =>
    have hlt : a - off < bytes.length := by omega
    rw [List.getElem?_eq_getElem hlt, Option.getD_some, List.getD_eq_getElem _ _ hlt]
  next => rfl

/-- The host has stored a byte exactly where it had, or where it just wrote. -/
theorem isSome_read?_writeBytes (m : Memory) (off : Nat) (bytes : List Byte) (a : Nat) :
    ((m.writeBytes off bytes).read? a).isSome =
      ((m.read? a).isSome || decide (off ≤ a ∧ a < off + bytes.length)) := by
  rw [Memory.read?_writeBytes]
  split
  next hin =>
    have hlt : a - off < bytes.length := by omega
    rw [List.getElem?_eq_getElem hlt, decide_eq_true hin, Bool.or_true]
    rfl
  next hout => rw [decide_eq_false hout, Bool.or_false]

theorem hostFillIn_idle {s : State} {off : Nat} {bytes : List Byte} (hb : s.busy = false) (h : off + bytes.length < 2 ^ 32) :
    hostFillIn off bytes s = .next { s with inMem := s.inMem.writeBytes off bytes } := by
  have hroom : ¬ spaceSize < off + bytes.length := by unfold spaceSize; omega
  rw [hostFillIn, if_neg (by rw [hb]; decide), if_neg hroom]

theorem hostFillOut_idle {s : State} {off : Nat} {bytes : List Byte} (hb : s.busy = false) (h : off + bytes.length < 2 ^ 32) :
    hostFillOut off bytes s = .next { s with
      outMem := s.outMem.writeBytes off bytes, hostOut := s.hostOut.writeBytes off bytes } := by
  have hroom : ¬ spaceSize < off + bytes.length := by unfold spaceSize; omega
  rw [hostFillOut, if_neg (by rw [hb]; decide), if_neg hroom]

theorem hostReadOut_of_le {s : State} {n : Nat} (h : n < 2 ^ 32) :
    hostReadOut n s =
      if outVisible s then .next { s with rdOut := (List.range n).map (outByte s) }
      else .next { s with rdOut := (List.range n).map (Config.outByte s.draws), draws := s.draws + 1 } := by
  have hroom : ¬ spaceSize < n := by unfold spaceSize; omega
  rw [hostReadOut, if_neg hroom]

/-- Settles O11: each move by its own rule; OUT is visible where DONE was seen and BUSY = 0. -/
theorem hostMovesOnSpaces : Obligations.HostMovesOnSpaces := by
  intro s q hslot
  refine ⟨fun off bytes hq hb hlen => ?_, fun off bytes hq hb => ?_, fun off bytes hq hb hlen => ?_,
    fun off bytes hq hb => ?_, fun n hq hn hseen hb => ?_, fun n hq hn hhidden => ?_⟩ <;> rw [step_move hslot hq]
  · exact ⟨_, hostFillIn_idle (s := withHostq q s) hb hlen, rfl, fun a => getD_read?_writeBytes _ _ _ _ _⟩
  · exact if_pos hb
  · exact ⟨_, hostFillOut_idle (s := withHostq q s) hb hlen, rfl, fun a => isSome_read?_writeBytes _ _ _ _,
      fun a => getD_read?_writeBytes _ _ _ _ _⟩
  · exact if_pos hb
  · have hvisible : outVisible (withHostq q s) = true := by simp [outVisible, hseen, hb]
    exact (hostReadOut_of_le hn).trans (if_pos hvisible)
  · have hnot : ¬ outVisible (withHostq q s) = true := by
      obtain h | h := hhidden <;> simp [outVisible, h]
    exact (hostReadOut_of_le hn).trans (if_neg hnot)

/-! ## The cap (R8, I4) -/

/-- Settles O58: no operation and no move writes the parameter; a START is refused exactly above it. -/
theorem startAboveCapRefused : Obligations.StartAboveCapRefused := by
  refine ⟨fun s t hstep => ?_, fun s a q uw fw hslot hq hdec hb huw => ?_⟩
  · cases hslot : s.slot with
    | some c =>
      simp only [step, fetch, hslot, slotTurn] at hstep
      split at hstep
      · exact (exec_inMem_inputCap hstep).2
      · cases hstep
    | none =>
      obtain ⟨a, q, i, -, -, -, hexec⟩ | ⟨off, bytes, q, -, hfill⟩ | ⟨off, bytes, q, -, hfill⟩ | ⟨n, q, -, hread⟩ |
        ⟨q, -, rfl⟩ | ⟨q, -, -, hexec⟩ | ⟨s', hs', hturn⟩ := step_next hslot hstep
      · exact (exec_inMem_inputCap hexec).2
      · unfold hostFillIn at hfill
        split_ifs at hfill
        cases hfill; rfl
      · unfold hostFillOut at hfill
        split_ifs at hfill
        cases hfill; rfl
      · obtain ⟨-, rfl⟩ | ⟨-, rfl⟩ := hostReadOut_next hread <;> rfl
      · rfl
      · exact (exec_inMem_inputCap hexec).2
      · have hcap : s'.inputCap = s.inputCap := by obtain rfl | ⟨q, rfl⟩ := hs' <;> rfl
        obtain ⟨-, hexec⟩ | ⟨-, rfl⟩ := hturn
        · rw [(exec_inMem_inputCap hexec).2, hcap]
        · exact hcap
  · have hsome : (legalWidth uw).isSome = true := (legalWidth_isSome_iff uw).mpr huw
    have habove := startsAboveCap_start uw fw (withHostq q s)
    rw [step_move hslot hq, hostTurn, perform_accessTurn hdec]
    refine ⟨fun hover => if_pos (habove.mpr ⟨hb, hsome, hover⟩), fun hle => ?_⟩
    obtain ⟨w, hw⟩ := Option.isSome_iff_exists.mp hsome
    have hnot : ¬ startsAboveCap (.start uw fw) (withHostq q s) = true := fun h => by
      obtain ⟨-, -, hover⟩ := habove.mp h
      exact absurd hover (Nat.not_lt.mpr hle)
    rw [if_neg hnot, exec_start_idle (s := withHostq q s) uw fw hb, startScan_legal hw]
    exact ⟨_, rfl, rfl, rfl⟩

/-! ## Which operation a step runs (R87, R91) -/

/-- Only a START can be above the cap, and only one that begins a compression. -/
theorem startsAboveCap_eq_false {i : Instr} {s : State}
    (h : ∀ uw fw, i = .start uw fw → s.busy = true ∨ (uw ≠ 8 ∧ uw ≠ 16 ∧ uw ≠ 32) ∨ s.inLen.toNat ≤ s.inputCap) :
    startsAboveCap i s = false := by
  by_contra hne
  have habove : startsAboveCap i s = true := Bool.not_eq_false _ ▸ hne
  cases i with
  | start uw fw =>
    obtain ⟨hb, hw, hlen⟩ := (startsAboveCap_start uw fw s).mp habove
    rw [legalWidth_isSome_iff] at hw
    obtain hbusy | ⟨h8, h16, h32⟩ | hle := h uw fw rfl
    · rw [hb] at hbusy; cases hbusy
    · obtain h | h | h := hw
      · exact h8 h
      · exact h16 h
      · exact h32 h
    · omega
  | _ => cases habove

/-- Settles O2: the slot, the access at the head, the core alone, `letCore` and WAIT. -/
theorem stepRunsDecodedOperation : Obligations.StepRunsDecodedOperation := by
  refine ⟨fun s c i hslot hdec => step_slot hslot hdec, fun s a q i hslot hq hdec hcap => ?_,
    fun s halone hp => ?_, fun s halone hp => ?_, fun s q hslot hq hp => ?_, fun s q hslot hq hp => ?_,
    fun s q hslot hq hd => ?_, fun s q hslot hq hd hp => ?_⟩
  · rw [step_move hslot hq, hostTurn, perform_accessTurn hdec,
      startsAboveCap_eq_false (s := withHostq q s) hcap, if_neg (by decide)]
    rfl
  · rw [step_core halone.2 halone.1, if_pos hp]
  · rw [step_core halone.2 halone.1, if_neg (by rw [hp]; decide)]
  · rw [step_move hslot hq, hostTurn, perform_coreTurn]
    exact if_pos hp
  · rw [step_move hslot hq, hostTurn, perform_coreTurn]
    exact if_neg (by rw [withHostq_phase, hp]; decide)
  · rw [step_move hslot hq, hostTurn, waitTurn, if_pos hd]
    rfl
  · rw [step_move hslot hq, hostTurn, waitTurn, if_neg (by rw [hd]; decide), perform_coreTurn, if_pos hp]

/-! ## The clamps (R9) -/

/-- Settles O57: at W = 4 the units are a quarter of less than 2^32 bytes; 70000 bytes reach both clamps at the other widths. -/
theorem wideClampsUnreachable : Obligations.WideClampsUnreachable := by
  refine ⟨fun len hlen => ?_, fun w hw => ⟨70000, by decide, ?_⟩⟩
  · have hlit : maxLit .w4 = 2 ^ 31 := rfl
    have hrun : maxRun .w4 = 2 ^ 31 + 1 := rfl
    have hunits : unitCount len .w4 = (len + 4 - 1) / 4 := rfl
    rw [hlit, hrun, hunits]
    omega
  · cases w with
    | w1 => decide
    | w2 => decide
    | w4 => exact absurd rfl hw

end Sys2Proof.Machine
end
